-- ==== Sys2Proof/Word.lean ====
section
/-! DEFINITION. The word types of SCD30-PE (00_scope.md R7: `u8`, `u16`, `u32`, all unsigned). -/

namespace Sys2Proof

/-- `u8`, one byte (R7). -/
abbrev Byte := BitVec 8

/-- `u16`, a data word (R7, R8). -/
abbrev Word := BitVec 16

/-- `u32`, and also `b32`, the pattern of a binary32 value that the block never interprets (R7). -/
abbrev DWord := BitVec 32

end Sys2Proof
end

