-- ==== Sys2Proof/Config.lean ====
section
/-! DEFINITION. The implementation parameters of SCD30-PE (00_scope.md R6). What the spec fixes is a constant; what it marks
OPEN is a field of `Config`, and the machine right after reset holds opaque constants there, of which nothing can be proved. -/

namespace Sys2Proof

/-- The closed catalog of device commands (42_command_catalog.md R56), in the order of their selectors. -/
inductive Command where
  | getFw | softReset | startCont | stopCont | setInterval | getReady | readMeas
  | setToff | getToff | setAlt | getAlt | setPressure | setAsc | setFrc
deriving DecidableEq, Repr

/-- One value for each catalog command: the parameter `DELAY_MS(c)`, as plain data. -/
structure PerCommand (α : Type) where
  getFw : α
  softReset : α
  startCont : α
  stopCont : α
  setInterval : α
  getReady : α
  readMeas : α
  setToff : α
  getToff : α
  setAlt : α
  getAlt : α
  setPressure : α
  setAsc : α
  setFrc : α
deriving DecidableEq, Repr

namespace PerCommand

/-- The value a table holds for command `c`. -/
def get {α : Type} (t : PerCommand α) : Command → α
  | .getFw => t.getFw
  | .softReset => t.softReset
  | .startCont => t.startCont
  | .stopCont => t.stopCont
  | .setInterval => t.setInterval
  | .getReady => t.getReady
  | .readMeas => t.readMeas
  | .setToff => t.setToff
  | .getToff => t.getToff
  | .setAlt => t.setAlt
  | .getAlt => t.getAlt
  | .setPressure => t.setPressure
  | .setAsc => t.setAsc
  | .setFrc => t.setFrc

/-- The table of a function of the command. -/
def ofFn {α : Type} (f : Command → α) : PerCommand α where
  getFw := f .getFw
  softReset := f .softReset
  startCont := f .startCont
  stopCont := f .stopCont
  setInterval := f .setInterval
  getReady := f .getReady
  readMeas := f .readMeas
  setToff := f .setToff
  getToff := f .getToff
  setAlt := f .setAlt
  getAlt := f .getAlt
  setPressure := f .setPressure
  setAsc := f .setAsc
  setFrc := f .setFrc

end PerCommand

/-- `CMD_ADDR` as a table, one entry for each row of 42_command_catalog.md R58: the set form and the get form of a setting share
one command word (44_commands.md R96 "Same `CMD_ADDR` as SET_TOFF", R98; log 27). -/
structure CmdAddrs where
  getFw : Word
  softReset : Word
  startCont : Word
  stopCont : Word
  setInterval : Word
  getReady : Word
  readMeas : Word
  /-- SET_TOFF and GET_TOFF -/
  toff : Word
  /-- SET_ALT and GET_ALT -/
  alt : Word
  setPressure : Word
  setAsc : Word
  setFrc : Word
deriving DecidableEq, Repr

/-- `CMD_ADDR(c)` (R58, R96, R98). -/
def CmdAddrs.get (t : CmdAddrs) : Command → Word
  | .getFw => t.getFw
  | .softReset => t.softReset
  | .startCont => t.startCont
  | .stopCont => t.stopCont
  | .setInterval => t.setInterval
  | .getReady => t.getReady
  | .readMeas => t.readMeas
  | .setToff => t.toff
  | .getToff => t.toff
  | .setAlt => t.alt
  | .getAlt => t.alt
  | .setPressure => t.setPressure
  | .setAsc => t.setAsc
  | .setFrc => t.setFrc

/-- Which codes are kinds of transport failure: OPEN, no value (R6, 92_eei_decisions.md D31, log 3). -/
opaque OpenParam.isTKind : Nat → Bool

/-- `TKind`, the OPEN type of transport failure kinds (R6, D31): which kinds there are, and how many, is an opaque constant of
which nothing can be proved. Every countable type with at least one kind has this form, finite or not. The block passes a kind
through and never looks into it. DESIGN CHOICE (log 3): a kind has a code, and code 0 is a kind, as the source names kinds. -/
structure TKind where
  code : Nat
  isKind : (code == 0 || OpenParam.isTKind code) = true
deriving DecidableEq, Repr

/-- The parameters of R6 that a model takes as an argument: the OPEN ones and the framing switch `CMD_WORD_CRC`. -/
structure Config where
  /-- `DEV_ADDR`: the one fixed device address on the bus (D9). -/
  devAddr : BitVec 7
  /-- `CMD_ADDR(c)`: the 16-bit word that opens the request frame of `c` (D8). -/
  cmdAddr : CmdAddrs
  /-- `DELAY_MS(c)`: the mandated delay of `c` in milliseconds (D10). -/
  delayMs : PerCommand Nat
  /-- `FRC_MIN` (D13). -/
  frcMin : Word
  /-- `FRC_MAX` (D13). -/
  frcMax : Word
  /-- `CMD_WORD_CRC`: the command word carries a check byte (D7). -/
  cmdWordCrc : Bool
deriving DecidableEq, Repr

namespace Config

/-- `WORD_BITS` (R6). -/
def wordBits : Nat := 16

/-- `CRC_BITS` (R6). -/
def crcBits : Nat := 8

/-- `CRC_POLY` (R6). -/
def crcPoly : Byte := 0x31#8

/-- `CRC_INIT` (R6). -/
def crcInit : Byte := 0xFF#8

/-- `CRC_XOROUT` (R6; decision D5, which the spec takes from general knowledge, log 4). -/
def crcXorout : Byte := 0x00#8

/-- `CRC_REFLECT` (R6; decision D5, which the spec takes from general knowledge, log 4). -/
def crcReflect : Bool := false

/-- `WIRE_WORD_BYTES` (R6). -/
def wireWordBytes : Nat := 3

/-- `MAX_RESP_WORDS` (R6). -/
def maxRespWords : Nat := 6

/-- `MAX_ARG_WORDS` (R6). -/
def maxArgWords : Nat := 1

/-- The capacity of TXBUF, `3 * (1 + MAX_ARG_WORDS)` = 6 (10_state.md R13). -/
def txCapacity : Nat := wireWordBytes * (1 + maxArgWords)

/-- The longest `data` list a request can carry (30_encoding.md R29, R31). -/
def maxDataBytes : Nat := 18

/-- `PRESSURE_MIN` (R6). -/
def pressureMin : Word := 700#16

/-- `PRESSURE_MAX` (R6). -/
def pressureMax : Word := 1400#16

/-- `PRESSURE_DISABLE` (R6). -/
def pressureDisable : Word := 0#16

/-- `INTERVAL_MIN` (R6). -/
def intervalMin : Word := 2#16

/-- `INTERVAL_MAX` (R6). -/
def intervalMax : Word := 1800#16

end Config

/-- `DEV_ADDR` of the machine that `State.reset` describes: OPEN, no value (R6, log 2). -/
opaque OpenParam.devAddr : BitVec 7

/-- `CMD_ADDR` of the machine that `State.reset` describes: OPEN, no value (R6, log 2). It is read at one command of each row of
R58. -/
opaque OpenParam.cmdAddr : Command → Word

/-- `DELAY_MS` of the machine that `State.reset` describes: OPEN, no value (R6, log 2). -/
opaque OpenParam.delayMs : Command → Nat

/-- `FRC_MIN` of the machine that `State.reset` describes: OPEN, no value (R6, log 2). -/
opaque OpenParam.frcMin : Word

/-- `FRC_MAX` of the machine that `State.reset` describes: OPEN, no value (R6, log 2). -/
opaque OpenParam.frcMax : Word

/-- What `REQ_ARGS` holds after reset: unspecified (`unset`) in 70_reset_and_hazards.md R114, and here an opaque list of 0 or 1
words. DESIGN CHOICE (log 1): a value of which nothing can be proved. -/
opaque OpenParam.unsetReqArg : Option Word

/-- The configuration `State.reset` holds: every OPEN parameter opaque, `CMD_WORD_CRC` at its value true (R6). -/
def Config.built : Config where
  devAddr := OpenParam.devAddr
  cmdAddr := ⟨OpenParam.cmdAddr .getFw, OpenParam.cmdAddr .softReset, OpenParam.cmdAddr .startCont,
    OpenParam.cmdAddr .stopCont, OpenParam.cmdAddr .setInterval, OpenParam.cmdAddr .getReady, OpenParam.cmdAddr .readMeas,
    OpenParam.cmdAddr .setToff, OpenParam.cmdAddr .setAlt, OpenParam.cmdAddr .setPressure, OpenParam.cmdAddr .setAsc,
    OpenParam.cmdAddr .setFrc⟩
  delayMs := PerCommand.ofFn OpenParam.delayMs
  frcMin := OpenParam.frcMin
  frcMax := OpenParam.frcMax
  cmdWordCrc := true

/-- The reference values of `CMD_ADDR` (42_command_catalog.md R58), which the spec takes from general knowledge. No
definition of the machine reads them; a statement that needs them names them as a premise (R6, log 25). -/
def Config.referenceCmdAddr : CmdAddrs where
  getFw := 0xD100#16
  softReset := 0xD304#16
  startCont := 0x0010#16
  stopCont := 0x0104#16
  setInterval := 0x4600#16
  getReady := 0x0202#16
  readMeas := 0x0300#16
  toff := 0x5403#16
  alt := 0x5102#16
  setPressure := 0x0010#16
  setAsc := 0x5306#16
  setFrc := 0x5204#16

end Sys2Proof
end

