-- ==== Sys2Proof/Syntax.lean ====
section
/-! DEFINITION. Requests and operations of SCD30-PE (30_encoding.md R29 to R33). -/

namespace Sys2Proof

/-- A request in its flat binary form (R29): the 56-bit request word and the separate byte list. -/
structure Request where
  word : BitVec 56
  data : List Byte
deriving DecidableEq, Repr

/-- The fields of a request (R29), each at its own width: what the request latch `REQ` holds (10_state.md R11). -/
structure ReqFields where
  opsel : Byte
  cmd : Byte
  b : Byte
  a : DWord
  data : List Byte
deriving DecidableEq, Repr, Inhabited

/-- What `REQ` holds after reset: unspecified (`unset`) in 10_state.md R20 and 70_reset_and_hazards.md R114. DESIGN CHOICE (log 1):
a value of which nothing can be proved. -/
opaque OpenParam.unsetReq : ReqFields

/-- An operation with the operand fields it uses (R30, R31), one constructor for each row of the opcode table. The fields are
as wide as the request carries them: a value with bits above the operand's width is an instruction, whose meaning raises
ValidationError(WIDTH) (R31). -/
inductive Instr where
  | crc8 (a : DWord)
  | verify (a : DWord) (b : Byte)
  | encU16 (a : DWord)
  | encU32 (a : DWord)
  | encF32 (a : DWord)
  | decU16 (data : List Byte)
  | decU32 (data : List Byte)
  | decF32 (data : List Byte)
  | decWords (b : Byte) (data : List Byte)
  | serialize (cmd : Byte) (a : DWord)
  | deframe (cmd : Byte) (data : List Byte)
  | getFw (a : DWord)
  | softReset (a : DWord)
  | startCont (a : DWord)
  | stopCont (a : DWord)
  | setInterval (a : DWord)
  | getReady (a : DWord)
  | setReady
  | readMeas (a : DWord)
  | setToff (a : DWord)
  | getToff (a : DWord)
  | setAlt (a : DWord)
  | getAlt (a : DWord)
  | setPressure (a : DWord)
  | setAsc (a : DWord)
  | setFrc (a : DWord)
deriving DecidableEq, Repr

/-- Why a request, or a list of bytes, is no operation of the table. -/
inductive Reject where
  /-- fewer bytes than the seven of a request word -/
  | truncated (given : Nat)
  /-- a reserved selector (R33) -/
  | reserved (opsel : Byte)
deriving DecidableEq, Repr

end Sys2Proof
end

