-- ==== Sys2Proof/WellFormed.lean ====
section
/-! DEFINITION. Which operations a request can carry. The one bound that the types do not give is that of the byte list
(30_encoding.md R29: "length 0 to 18"; R31: "longer lists cannot be presented"). A request outside it runs all the same (log 18). -/

namespace Sys2Proof

/-- The byte list an operation carries; empty for one that carries none (R31). -/
def Instr.dataBytes : Instr → List Byte
  | .crc8 _ => []
  | .verify _ _ => []
  | .encU16 _ => []
  | .encU32 _ => []
  | .encF32 _ => []
  | .decU16 data => data
  | .decU32 data => data
  | .decF32 data => data
  | .decWords _ data => data
  | .serialize _ _ => []
  | .deframe _ data => data
  | .getFw _ => []
  | .softReset _ => []
  | .startCont _ => []
  | .stopCont _ => []
  | .setInterval _ => []
  | .getReady _ => []
  | .setReady => []
  | .readMeas _ => []
  | .setToff _ => []
  | .getToff _ => []
  | .setAlt _ => []
  | .getAlt _ => []
  | .setPressure _ => []
  | .setAsc _ => []
  | .setFrc _ => []

/-- An operation that a request can carry (R29, R31). -/
abbrev Instr.WellFormed (i : Instr) : Prop := i.dataBytes.length ≤ Config.maxDataBytes

/-- A request that can be presented (R29, R31). -/
abbrev Request.WellFormed (r : Request) : Prop := r.data.length ≤ Config.maxDataBytes

end Sys2Proof
end

