-- ==== Sys2Proof/Decode.lean ====
section
/-! DEFINITION. Decoding and encoding of requests (30_encoding.md R29, R30, R31, R33, R37), and of the catalog selectors that
SERIALIZE and DEFRAME take as an operand. Decoding is total: every value of `opsel` is an operation or reserved. -/

namespace Sys2Proof

/-- The fields of a flat request (R29): `opsel` [7:0], `cmd` [15:8], `b` [23:16], `a` [55:24]. -/
def Request.fields (r : Request) : ReqFields where
  opsel := r.word.extractLsb' 0 8
  cmd := r.word.extractLsb' 8 8
  b := r.word.extractLsb' 16 8
  a := r.word.extractLsb' 24 32
  data := r.data

/-- The flat request with given fields (R29). -/
def ReqFields.request (q : ReqFields) : Request where
  word := (q.a ++ q.b ++ q.cmd ++ q.opsel : BitVec (32 + 8 + 8 + 8))
  data := q.data

/-- The operation that latched fields select (R30), with the operand fields it uses (R31). Reserved selectors (R33) are rejected
by name. -/
def ReqFields.decode (q : ReqFields) : Except Reject Instr :=
  match q.opsel.toNat with
  | 0x01 => .ok (.crc8 q.a)
  | 0x02 => .ok (.verify q.a q.b)
  | 0x03 => .ok (.encU16 q.a)
  | 0x04 => .ok (.encU32 q.a)
  | 0x05 => .ok (.encF32 q.a)
  | 0x06 => .ok (.decU16 q.data)
  | 0x07 => .ok (.decU32 q.data)
  | 0x08 => .ok (.decF32 q.data)
  | 0x09 => .ok (.decWords q.b q.data)
  | 0x0A => .ok (.serialize q.cmd q.a)
  | 0x0B => .ok (.deframe q.cmd q.data)
  | 0x10 => .ok (.getFw q.a)
  | 0x11 => .ok (.softReset q.a)
  | 0x12 => .ok (.startCont q.a)
  | 0x13 => .ok (.stopCont q.a)
  | 0x14 => .ok (.setInterval q.a)
  | 0x15 => .ok (.getReady q.a)
  | 0x16 => .ok .setReady
  | 0x17 => .ok (.readMeas q.a)
  | 0x18 => .ok (.setToff q.a)
  | 0x19 => .ok (.getToff q.a)
  | 0x1A => .ok (.setAlt q.a)
  | 0x1B => .ok (.getAlt q.a)
  | 0x1C => .ok (.setPressure q.a)
  | 0x1D => .ok (.setAsc q.a)
  | 0x1E => .ok (.setFrc q.a)
  | _ => .error (.reserved q.opsel)

/-- The operation a flat request selects (R37). -/
def decode (r : Request) : Except Reject Instr := r.fields.decode

/-- A list of bytes as a number, the first byte the least significant (the table's bit numbering, log 20). -/
def leBytes : List Byte → Nat
  | [] => 0
  | b :: bs => b.toNat + 256 * leBytes bs

/-- The first `n` bytes of a number, least significant first (log 20). -/
def bytesOfNat : Nat → Nat → List Byte
  | 0, _ => []
  | n + 1, v => BitVec.ofNat 8 v :: bytesOfNat n (v / 256)

/-- A request from its bytes: seven bytes of request word, then the byte list (log 20). -/
def Request.ofBytes (bs : List Byte) : Except Reject Request :=
  if bs.length < 7 then .error (.truncated bs.length)
  else .ok ⟨BitVec.ofNat 56 (leBytes (bs.take 7)), bs.drop 7⟩

/-- The bytes of a request (log 20). -/
def Request.toBytes (r : Request) : List Byte := bytesOfNat 7 r.word.toNat ++ r.data

/-- Decoding of any list of bytes: total, rejecting by name. -/
def decodeBytes (bs : List Byte) : Except Reject Instr :=
  match Request.ofBytes bs with
  | .error e => .error e
  | .ok r => decode r

/-- The selector of an operation (R30). -/
def Instr.opsel : Instr → Byte
  | .crc8 _ => 0x01#8
  | .verify _ _ => 0x02#8
  | .encU16 _ => 0x03#8
  | .encU32 _ => 0x04#8
  | .encF32 _ => 0x05#8
  | .decU16 _ => 0x06#8
  | .decU32 _ => 0x07#8
  | .decF32 _ => 0x08#8
  | .decWords _ _ => 0x09#8
  | .serialize _ _ => 0x0A#8
  | .deframe _ _ => 0x0B#8
  | .getFw _ => 0x10#8
  | .softReset _ => 0x11#8
  | .startCont _ => 0x12#8
  | .stopCont _ => 0x13#8
  | .setInterval _ => 0x14#8
  | .getReady _ => 0x15#8
  | .setReady => 0x16#8
  | .readMeas _ => 0x17#8
  | .setToff _ => 0x18#8
  | .getToff _ => 0x19#8
  | .setAlt _ => 0x1A#8
  | .getAlt _ => 0x1B#8
  | .setPressure _ => 0x1C#8
  | .setAsc _ => 0x1D#8
  | .setFrc _ => 0x1E#8

/-- The kind column of R30: a pure operation, 0x01 to 0x0B, ends in the step that accepts it. -/
def Instr.isPure (i : Instr) : Bool := decide (i.opsel ≤ 0x0B#8)

/-- The fields of an operation's request (R31); a field it does not use is 0, or the empty list. -/
def Instr.fields (i : Instr) : ReqFields :=
  match i with
  | .crc8 a => ⟨i.opsel, 0, 0, a, []⟩
  | .verify a b => ⟨i.opsel, 0, b, a, []⟩
  | .encU16 a => ⟨i.opsel, 0, 0, a, []⟩
  | .encU32 a => ⟨i.opsel, 0, 0, a, []⟩
  | .encF32 a => ⟨i.opsel, 0, 0, a, []⟩
  | .decU16 data => ⟨i.opsel, 0, 0, 0, data⟩
  | .decU32 data => ⟨i.opsel, 0, 0, 0, data⟩
  | .decF32 data => ⟨i.opsel, 0, 0, 0, data⟩
  | .decWords b data => ⟨i.opsel, 0, b, 0, data⟩
  | .serialize cmd a => ⟨i.opsel, cmd, 0, a, []⟩
  | .deframe cmd data => ⟨i.opsel, cmd, 0, 0, data⟩
  | .getFw a => ⟨i.opsel, 0, 0, a, []⟩
  | .softReset a => ⟨i.opsel, 0, 0, a, []⟩
  | .startCont a => ⟨i.opsel, 0, 0, a, []⟩
  | .stopCont a => ⟨i.opsel, 0, 0, a, []⟩
  | .setInterval a => ⟨i.opsel, 0, 0, a, []⟩
  | .getReady a => ⟨i.opsel, 0, 0, a, []⟩
  | .setReady => ⟨i.opsel, 0, 0, 0, []⟩
  | .readMeas a => ⟨i.opsel, 0, 0, a, []⟩
  | .setToff a => ⟨i.opsel, 0, 0, a, []⟩
  | .getToff a => ⟨i.opsel, 0, 0, a, []⟩
  | .setAlt a => ⟨i.opsel, 0, 0, a, []⟩
  | .getAlt a => ⟨i.opsel, 0, 0, a, []⟩
  | .setPressure a => ⟨i.opsel, 0, 0, a, []⟩
  | .setAsc a => ⟨i.opsel, 0, 0, a, []⟩
  | .setFrc a => ⟨i.opsel, 0, 0, a, []⟩

/-- The request that carries an operation (R29, R31). -/
def encode (i : Instr) : Request := i.fields.request

/-- The operation that runs the exchange of a catalog command with operand `a` (R30). -/
def Command.toInstr (c : Command) (a : DWord) : Instr :=
  match c with
  | .getFw => .getFw a
  | .softReset => .softReset a
  | .startCont => .startCont a
  | .stopCont => .stopCont a
  | .setInterval => .setInterval a
  | .getReady => .getReady a
  | .readMeas => .readMeas a
  | .setToff => .setToff a
  | .getToff => .getToff a
  | .setAlt => .setAlt a
  | .getAlt => .getAlt a
  | .setPressure => .setPressure a
  | .setAsc => .setAsc a
  | .setFrc => .setFrc a

/-- The selector of a catalog command (R30, R56). -/
def Command.selector (c : Command) : Byte := (c.toInstr 0).opsel

/-- The catalog command a `cmd` operand of SERIALIZE or DEFRAME names (R31): 0x10 to 0x1E without 0x16, else none. -/
def Command.ofSelector (sel : Byte) : Option Command :=
  match sel.toNat with
  | 0x10 => some .getFw
  | 0x11 => some .softReset
  | 0x12 => some .startCont
  | 0x13 => some .stopCont
  | 0x14 => some .setInterval
  | 0x15 => some .getReady
  | 0x17 => some .readMeas
  | 0x18 => some .setToff
  | 0x19 => some .getToff
  | 0x1A => some .setAlt
  | 0x1B => some .getAlt
  | 0x1C => some .setPressure
  | 0x1D => some .setAsc
  | 0x1E => some .setFrc
  | _ => none

/-- The request of an opcode-table word: the word's low `nbits` bits as a request word, no byte list (log 20). -/
def tableRequest (nbits w : Nat) : Request := ⟨BitVec.ofNat 56 (w % 2 ^ nbits), []⟩

/-- What the decoder reads from an opcode-table word, laid out as bytes and given to it. -/
def decodeTableWord (nbits w : Nat) : Option Instr :=
  (decodeBytes (tableRequest nbits w).toBytes).toOption

end Sys2Proof
end

