-- ==== Sys2Proof/Machine/State.lean ====
section
/-! DEFINITION. The state of SCD30-PE (10_state.md), its configuration, and the outside world at its ports, as plain data. -/

namespace Sys2Proof.Machine

/-- `PHASE` (R10): the sequencer's current step. -/
inductive Phase where
  | idle | validate | encode | transmit | await | receive | decode | done
deriving DecidableEq, Repr

/-- The result type (30_encoding.md R32). -/
inductive Result where
  | unit
  | bool (v : Bool)
  | u8 (v : Byte)
  | u16 (v : Word)
  | u32 (v : DWord)
  | b32 (v : DWord)
  | bytes (v : List Byte)
  | words (v : List Word)
  | fw (major minor : Byte)
  | meas (co2 temperature humidity : DWord)
deriving DecidableEq, Repr

/-- The causes of a ValidationError (60_exceptions.md R102, R103). -/
inductive Cause where
  | width | pressureRange | intervalRange | frcRange
deriving DecidableEq, Repr

/-- The typed errors with the information each records (R102). -/
inductive Error where
  | validation (cause : Cause)
  | checksum (index : Nat)
  | transport (kind : TKind)
  | decode (expectedWords receivedBytes : Nat)
  | unsupported (selector : Byte)
deriving DecidableEq, Repr

/-- `ERR.info` (R16, R102; log 30). -/
inductive ErrInfo where
  | none
  | cause (c : Cause)
  | wordIndex (k : Nat)
  | kind (k : TKind)
  | wordCount (expectedWords receivedBytes : Nat)
  | selector (sel : Byte)
deriving DecidableEq, Repr

/-- `ERR` (R16): the pair of a code (R102) and its information. -/
structure ErrReg where
  code : Byte
  info : ErrInfo
deriving DecidableEq, Repr

/-- A transaction the block issues on the transport port or the delay port (43_exchange_sequencer.md R84, R85), as the trace
of R83 records it. -/
inductive PortEvent where
  | write (dev : BitVec 7) (bytes : List Byte)
  | wait (ms : Nat)
  | read (dev : BitVec 7) (count : Nat)
deriving DecidableEq, Repr

/-- An answer of the transport or the delay provider (R84, R85). -/
inductive Answer where
  /-- `Ok`, to a BusWrite -/
  | writeOk
  /-- `Ok(L)`, to a BusRead: any bytes, of any number -/
  | readOk (bytes : List Byte)
  /-- `Fail(k)`, to a BusWrite or a BusRead -/
  | fail (kind : TKind)
  /-- `Done`, to a Wait -/
  | done
deriving DecidableEq, Repr

/-- What the outside world does to the block at one step: the level of the reset input (70_reset_and_hazards.md R114), and at
most one answer, with the number of the transaction it answers: its place in the trace, counted from 0 (log 8, 9). -/
structure Input where
  reset : Bool
  answer : Option (Nat × Answer)
deriving DecidableEq, Repr

/-- A byte store addressed from 0 (20_memory.md R21): (index, byte) cells, indices strictly rising. An index that is not listed
holds no byte yet, the spec's `unset` (R20, R114, log 1). -/
abbrev Memory := List Host.Cell

/-- The canonical form of a byte store: indices strictly rising. An unlisted index reads as no value, so no listed byte can
equal what an unlisted index reads as. -/
def Memory.wf : Memory → Bool
  | [] => true
  | [_] => true
  | c :: d :: rest => decide (c.1 < d.1) && Memory.wf (d :: rest)

/-- Why the model stops. The block itself never stops (60_exceptions.md R110); no run from reset meets one of these. All are safe: the model stops and proves nothing of what follows. -/
inductive Fault where
  /-- Raised by TRANSMIT when it reads a byte of TXBUF that is unset (R17, 93_implementation_defined.md
  I19). Safe. -/
  | unsetTxByte (index : Nat)
  /-- Raised by ENCODE or TRANSMIT at an index of TXBUF that does not exist (R13). Safe. -/
  | txIndex (index : Nat)
deriving DecidableEq, Repr

/-- Why the model gives an instruction no meaning. -/
inductive Refusal where
  /-- Raised by an arm of exec whose instruction has no meaning yet; no arm does. Safe. -/
  | notModelled (mnemonic : String)
deriving DecidableEq, Repr

/-- The machine: the block's state (10_state.md R9), its configuration (R6, R19), and the outside world at its ports. -/
structure State where
  /-- `PHASE` (R10). -/
  phase : Phase
  /-- `REQ` (R11). -/
  req : ReqFields
  /-- `REQ_ARGS` (R11, R75). -/
  reqArgs : List Word
  /-- `CRCREG` (R12). -/
  crcreg : Byte
  /-- `TXBUF` (R13). -/
  txbuf : Memory
  /-- `TXLEN` (R13). -/
  txlen : Nat
  /-- `RXBUF` (R14). -/
  rxbuf : List Byte
  /-- `RXLEN` (R14). -/
  rxlen : Nat
  /-- `WIDX` (R14). -/
  widx : Nat
  /-- `RES` (R15); `none` is the spec's `unset` (R20, R114), no value (I19). -/
  res : Option Result
  /-- `RES_VALID` (R15). -/
  resValid : Bool
  /-- `ERR` (R16). -/
  err : ErrReg
  /-- A transaction is issued and not answered: the "(waiting)" of R75, the "transaction outstanding" of R115 (log 6). -/
  outstanding : Bool
  /-- The configuration (R6, R19): no step writes it (log 2). -/
  cfg : Config
  /-- The request port (R74): the requests the requester presents one after the other, the head now (log 7). -/
  requests : List Request
  /-- The reset input and the answers, one entry for each coming step; an empty list means that nothing happens (log 8). -/
  inputs : List Input
  /-- The port events so far, oldest first (R83, R86; log 11). -/
  trace : List PortEvent
deriving DecidableEq, Repr

/-- The machine right after reset (R20, R114), with nothing presented at its ports (log 24). What is
unspecified there is opaque (log 1). -/
def State.reset : State where
  phase := .idle
  req := OpenParam.unsetReq
  reqArgs := OpenParam.unsetReqArg.toList
  crcreg := 0xFF#8
  txbuf := []
  txlen := 0
  rxbuf := []
  rxlen := 0
  widx := 0
  res := none
  resValid := false
  err := ⟨0x00#8, .none⟩
  outstanding := false
  cfg := Config.built
  requests := []
  inputs := []
  trace := []

end Sys2Proof.Machine
end

