-- ==== Sys2Proof/Machine/Crc.lean ====
section
/-! DEFINITION. The checksum engine (40_checksum.md R39, R42) and the byte and word splitting it rests on (00_scope.md R7). -/

namespace Sys2Proof.Machine

/-- `w[15:8]`. -/
def hiByte (w : Word) : Byte := w.extractLsb' 8 8

/-- `w[7:0]`. -/
def loByte (w : Word) : Byte := w.extractLsb' 0 8

/-- `v[31:16]`. -/
def hiWord (v : DWord) : Word := v.extractLsb' 16 16

/-- `v[15:0]`. -/
def loWord (v : DWord) : Word := v.extractLsb' 0 16

/-- `(h, l)` with h in the upper bits: the big-endian data word of two bytes (20_memory.md R23). -/
def joinBytes (h l : Byte) : Word := h ++ l

/-- `(hi, lo)` with hi in the upper bits: high word first (20_memory.md R23). -/
def joinWords (hi lo : Word) : DWord := hi ++ lo

/-- The bit reversal that `CRC_REFLECT` switches on (00_scope.md R6): with its value false, nothing (log 4). -/
def crcReflected (b : Byte) : Byte := if Config.crcReflect then b.reverse else b

/-- One shift of the engine (R39): left by one bit, and the polynomial is XORed in if the bit shifted out was 1. -/
def crcShift (c : Byte) : Byte :=
  if c.msb then (c <<< 1) ^^^ Config.crcPoly else c <<< 1

/-- `n` shifts of the engine. -/
def crcShifts : Nat → Byte → Byte
  | 0, c => c
  | n + 1, c => crcShifts n (crcShift c)

/-- One byte through the engine: XORed into the register, then eight shifts (R39). -/
def crcByte (c d : Byte) : Byte := crcShifts 8 (c ^^^ crcReflected d)

/-- `crc8(L)` (R39). -/
def crc8 (bytes : List Byte) : Byte :=
  crcReflected (bytes.foldl crcByte Config.crcInit) ^^^ Config.crcXorout

/-- `CRC8(w)`, over the two big-endian bytes of the word (R39). -/
def crc8Word (w : Word) : Byte := crc8 [hiByte w, loByte w]

/-- One use of the engine on a data word: `CRCREG <- CRC8(w)` (R12, R42). -/
def crcPass (w : Word) (s : State) : State := { s with crcreg := crc8Word w }

/-- What `CRCREG` holds after the engine was used on each word of a list in turn, from value `c`: every use starts from its own
load (R42), so the last word's checksum is left (log 13). -/
def crcAfter : List Word → Byte → Byte
  | [], c => c
  | w :: ws, _ => crcAfter ws (crc8Word w)

/-- The engine used on each word of a list in turn (R42). -/
def crcPasses (ws : List Word) (s : State) : State := { s with crcreg := crcAfter ws s.crcreg }

end Sys2Proof.Machine
end

