-- ==== Sys2Proof/Machine/Ops.lean ====
section
/-! DEFINITION. The shared operations: the byte store, the word codec, error entry and return (00_scope.md R7,
60_exceptions.md R108), the request handshake (43_exchange_sequencer.md R74), the ports, the reset and the advance of time. -/

namespace Sys2Proof.Machine

/-- The outcome of a meaning or a step. -/
abbrev Step := Host.Outcome State Fault Refusal

/-! ### The byte store (20_memory.md R21) -/

/-- The byte at an index, if one was written. -/
def Memory.read : Memory → Nat → Option Byte
  | [], _ => none
  | c :: rest, i => if c.1 = i then some c.2 else Memory.read rest i

/-- Writes one byte at an index, keeping the canonical form. -/
def Memory.write : Memory → Nat → Byte → Memory
  | [], i, b => [(i, b)]
  | c :: rest, i, b =>
    if i < c.1 then (i, b) :: c :: rest
    else if i = c.1 then (i, b) :: rest
    else c :: Memory.write rest i b

/-- Writes a list of bytes from an index upwards. -/
def Memory.writeList : Memory → Nat → List Byte → Memory
  | m, _, [] => m
  | m, i, b :: bs => Memory.writeList (Memory.write m i b) (i + 1) bs

/-- `MemWrite(TXBUF, i, len, v)` (R21) within the buffer's capacity (10_state.md R13); beyond it no byte exists (log 29). -/
def txWrite (m : Memory) (i : Nat) (bs : List Byte) : Except Fault Memory :=
  if i + bs.length ≤ Config.txCapacity then .ok (Memory.writeList m i bs) else .error (.txIndex Config.txCapacity)

/-- One byte of TXBUF: an index past its capacity does not exist, an unset byte is a fault (I19). -/
def txByte (m : Memory) (i : Nat) : Except Fault Byte :=
  if Config.txCapacity ≤ i then .error (.txIndex i)
  else match Memory.read m i with
    | some b => .ok b
    | none => .error (.unsetTxByte i)

/-- `MemRead(TXBUF, i, n)` (R21): `TXBUF[i .. i+n-1]`. -/
def txRead (m : Memory) (i : Nat) : Nat → Except Fault (List Byte)
  | 0 => .ok []
  | n + 1 =>
    match txByte m i with
    | .error f => .error f
    | .ok b =>
      match txRead m (i + 1) n with
      | .error f => .error f
      | .ok bs => .ok (b :: bs)

/-! ### The word codec (41_word_codec.md) -/

/-- `wire(w)`: the 3-byte wire word (R45, 30_encoding.md R34). -/
def wire (w : Word) : List Byte := [hiByte w, loByte w, crc8Word w]

/-- `wire32(v)`: two wire words, high word first (R45). -/
def wire32 (v : DWord) : List Byte := wire (hiWord v) ++ wire (loWord v)

/-- The wire words of a list of data words, in order. -/
def wires : List Word → List Byte
  | [] => []
  | w :: ws => wire w ++ wires ws

/-- What verifying a byte list leaves: `CRCREG`, `WIDX` and the index of the first wire word that fails, if one does. -/
structure Verified where
  crcreg : Byte
  widx : Nat
  failed : Option Nat
deriving DecidableEq, Repr

/-- The loop of `dec_words` (R46): every complete wire word in order, from index `k` on, stopping at the first whose check byte
is not the checksum of its data word. `crc` and `widx` are what `CRCREG` and `WIDX` hold before. -/
def verifyFrom (k : Nat) (crc : Byte) (widx : Nat) : List Byte → Verified
  | h :: l :: c :: rest =>
    if crc8Word (joinBytes h l) = c then verifyFrom (k + 1) (crc8Word (joinBytes h l)) k rest
    else ⟨crc8Word (joinBytes h l), k, some k⟩
  | _ => ⟨crc, widx, none⟩

/-- The data words of the complete wire words of a byte list. -/
def unpackWords : List Byte → List Word
  | h :: l :: _ :: rest => joinBytes h l :: unpackWords rest
  | _ => []

/-- `dec_words(L, n)` as a value (R46): ChecksumError for the first failing word, then DecodeError for a wrong length. -/
def decWords (bytes : List Byte) (n : Nat) : Except Error (List Word) :=
  match (verifyFrom 0 Config.crcInit 0 bytes).failed with
  | some k => .error (.checksum k)
  | none => if bytes.length = Config.wireWordBytes * n then .ok (unpackWords bytes) else .error (.decode n bytes.length)

/-- What `dec_words(L, n)` writes on the way (R42, R46): `WIDX` and `CRCREG` of the last word checked (log 13). -/
def afterVerify (bytes : List Byte) (s : State) : State :=
  { s with
    crcreg := (verifyFrom 0 s.crcreg s.widx bytes).crcreg
    widx := (verifyFrom 0 s.crcreg s.widx bytes).widx }

/-- The acceptance of a decode request writes RXBUF (10_state.md R14, 20_memory.md R21; log 12). -/
def loadRx (bytes : List Byte) (s : State) : State := { s with rxbuf := bytes, rxlen := bytes.length }

/-! ### Outcomes (00_scope.md R7, 60_exceptions.md R102, R108) -/

/-- `ERR` when there is no error: `(0, none)` (R16). -/
def ErrReg.clear : ErrReg := ⟨0x00#8, .none⟩

/-- The error codes (R102). -/
def Error.code : Error → Byte
  | .validation _ => 0x01#8
  | .checksum _ => 0x02#8
  | .transport _ => 0x03#8
  | .decode _ _ => 0x04#8
  | .unsupported _ => 0x05#8

/-- The information an error records (R102). -/
def Error.info : Error → ErrInfo
  | .validation c => .cause c
  | .checksum k => .wordIndex k
  | .transport k => .kind k
  | .decode n len => .wordCount n len
  | .unsupported sel => .selector sel

/-- What `raise` writes to `ERR` (R108). -/
def Error.reg (e : Error) : ErrReg := ⟨e.code, e.info⟩

/-- `raise E(info)` (R7, R108): the one entry of every error. No transaction stays outstanding in DONE. -/
def raise (e : Error) (s : State) : State :=
  { s with err := e.reg, resValid := false, phase := .done, outstanding := false }

/-- `return v` (R7): the one way an operation ends with a result. -/
def ret (v : Result) (s : State) : State :=
  { s with res := some v, resValid := true, err := ErrReg.clear, phase := .done, outstanding := false }

/-- Ends an operation with its outcome, a result or an error. -/
def finish (o : Except Error Result) (s : State) : State :=
  match o with
  | .error e => raise e s
  | .ok v => ret v s

/-- The end of every decode: what verifying `bytes` writes, and the typed value of the words or the error (R46, R55). -/
def finishDecode (bytes : List Byte) (n : Nat) (typed : List Word → Result) (s : State) : State :=
  finish ((decWords bytes n).map typed) (afterVerify bytes s)

/-! ### The request handshake, the ports and the reset -/

/-- What acceptance writes (43_exchange_sequencer.md R74): `REQ`, `RES_VALID` and `ERR`; it clears RES (10_state.md R15), which is
`unset` then (I19, log 15). The request leaves the port (log 7), and REQ_ARGS keeps its value (R11, log 16). -/
def accept (r : Request) (rest : List Request) (s : State) : State :=
  { s with req := r.fields, res := none, resValid := false, err := ErrReg.clear, requests := rest }

/-- `phase <- P` (R7); no transaction is outstanding on entry to a phase. -/
def enter (p : Phase) (s : State) : State := { s with phase := p, outstanding := false }

/-- Issues a transaction on a port (R75 "on issue"): it is recorded in the trace, and the block waits for its answer. -/
def issue (e : PortEvent) (s : State) : State := { s with trace := s.trace ++ [e], outstanding := true }

/-- What the outside world does at this step; nothing if no entry is left (log 8). -/
def currentInput (s : State) : Input :=
  match s.inputs with
  | [] => ⟨false, none⟩
  | i :: _ => i

/-- The answer that arrives at this step to the outstanding transaction, the last of the trace. An answer to any other
transaction, or with none outstanding, is discarded (70_reset_and_hazards.md R115, I20; log 9). -/
def answer (s : State) : Option Answer :=
  match (currentInput s).answer with
  | some (n, a) => if s.outstanding ∧ n + 1 = s.trace.length then some a else none
  | none => none

/-- The step is over: the input of the next step comes up. -/
def tick (s : State) : State := { s with inputs := s.inputs.tail }

/-- `tick` after a next state; a fault or a refusal stays as it is. -/
def thenTick : Step → Step
  | .next s => .next (tick s)
  | .fault f => .fault f
  | .refused r => .refused r

/-- The block's reset (R114, R20), in one step. The configuration, the ports and what was sent on them are not the block's to
undo (R114, R115). -/
def resetBlock (s : State) : State :=
  { s with
    phase := .idle, req := OpenParam.unsetReq, reqArgs := OpenParam.unsetReqArg.toList, crcreg := Config.crcInit
    txbuf := [], txlen := 0, rxbuf := [], rxlen := 0
    widx := 0, res := none, resValid := false, err := ErrReg.clear, outstanding := false }

end Sys2Proof.Machine
end

