-- ==== Sys2Proof/Machine/Catalog.lean ====
section
/-! DEFINITION. The command catalog (42_command_catalog.md): the four fields of an entry (R57), request frames (R70) and the
typed result of a response (R68, R69). -/

namespace Sys2Proof.Machine

/-- `CMD_ADDR(c)` (R58). -/
def cmdAddr (cfg : Config) (c : Command) : Word := cfg.cmdAddr.get c

/-- `DELAY_MS(c)` (R57). -/
def delayMs (cfg : Config) (c : Command) : Nat := cfg.delayMs.get c

/-- `N(c)`, the response word count (R59). -/
def respWords : Command → Nat
  | .getFw => 1
  | .softReset => 0
  | .startCont => 0
  | .stopCont => 0
  | .setInterval => 0
  | .getReady => 1
  | .readMeas => 6
  | .setToff => 0
  | .getToff => 1
  | .setAlt => 0
  | .getAlt => 1
  | .setPressure => 0
  | .setAsc => 0
  | .setFrc => 0

/-- The number of argument words of `ARGS(c)` (R60). -/
def argWords : Command → Nat
  | .getFw => 0
  | .softReset => 0
  | .startCont => 1
  | .stopCont => 0
  | .setInterval => 1
  | .getReady => 0
  | .readMeas => 0
  | .setToff => 1
  | .getToff => 0
  | .setAlt => 1
  | .getAlt => 0
  | .setPressure => 1
  | .setAsc => 1
  | .setFrc => 1

/-- The opening of a request frame: the command word, with its check byte if `CMD_WORD_CRC` (R70, 30_encoding.md R35). -/
def frameHead (cfg : Config) (c : Command) : List Byte :=
  if cfg.cmdWordCrc then wire (cmdAddr cfg c) else [hiByte (cmdAddr cfg c), loByte (cmdAddr cfg c)]

/-- `frame(c, args)` (R70). -/
def frame (cfg : Config) (c : Command) (args : List Word) : List Byte := frameHead cfg c ++ wires args

/-- The data words the engine is used on while a frame is built, in order (R42, R77): one for each wire word of the frame. -/
def frameWords (cfg : Config) (c : Command) (args : List Word) : List Word :=
  if cfg.cmdWordCrc then cmdAddr cfg c :: args else args

/-- `ws[k]`. `decode_result` is applied to exactly `N(c)` words (R68), so the default is never met (log 26). -/
def nthWord (ws : List Word) (k : Nat) : Word := ws.getD k 0#16

/-- `decode_result(c, ws)` (R68). -/
def decodeResult (c : Command) (ws : List Word) : Result :=
  match c with
  | .getFw => .fw (hiByte (nthWord ws 0)) (loByte (nthWord ws 0))
  | .getReady => .u16 (nthWord ws 0)
  | .readMeas =>
    .meas (joinWords (nthWord ws 0) (nthWord ws 1)) (joinWords (nthWord ws 2) (nthWord ws 3))
      (joinWords (nthWord ws 4) (nthWord ws 5))
  | .getToff => .u16 (nthWord ws 0)
  | .getAlt => .u16 (nthWord ws 0)
  | .softReset => .unit
  | .startCont => .unit
  | .stopCont => .unit
  | .setInterval => .unit
  | .setToff => .unit
  | .setAlt => .unit
  | .setPressure => .unit
  | .setAsc => .unit
  | .setFrc => .unit

/-- `deframe(c, L)` as a value (R69). -/
def deframe (c : Command) (bytes : List Byte) : Except Error Result :=
  (decWords bytes (respWords c)).map (decodeResult c)

end Sys2Proof.Machine
end

