-- ==== Sys2Proof/Machine/Operands.lean ====
section
/-! DEFINITION. The operand forms of the requests (30_encoding.md R31) and the validation of catalog arguments
(42_command_catalog.md R60 to R67). -/

namespace Sys2Proof.Machine

/-- A u16 operand `a[15:0]`: ValidationError(WIDTH) if a bit above it is set (R31). -/
def operandU16 (a : DWord) : Except Error Word :=
  if hiWord a = 0#16 then .ok (loWord a) else .error (.validation .width)

/-- The word count operand of DEC_WORDS: ValidationError(WIDTH) above `MAX_RESP_WORDS` (R31). -/
def operandCount (b : Byte) : Except Error Nat :=
  if b.toNat ≤ Config.maxRespWords then .ok b.toNat else .error (.validation .width)

/-- The command operand of SERIALIZE and DEFRAME: UnsupportedOp if it names no catalog command (R31, R33). -/
def operandCommand (cmd : Byte) : Except Error Command :=
  match Command.ofSelector cmd with
  | some c => .ok c
  | none => .error (.unsupported cmd)

/-- The ambient pressure rule (R62). -/
def pressureValid (p : Word) : Bool :=
  p == Config.pressureDisable || (decide (Config.pressureMin ≤ p) && decide (p ≤ Config.pressureMax))

/-- The measurement interval rule (R63). -/
def intervalValid (v : Word) : Bool := decide (Config.intervalMin ≤ v) && decide (v ≤ Config.intervalMax)

/-- The forced recalibration rule (R65). -/
def frcValid (cfg : Config) (v : Word) : Bool := decide (cfg.frcMin ≤ v) && decide (v ≤ cfg.frcMax)

/-- The domain check of a command's argument word (R62 to R66): the cause it fails with, if it does. -/
def domainFault (cfg : Config) (c : Command) (v : Word) : Option Cause :=
  match c with
  | .setPressure => if pressureValid v then none else some .pressureRange
  | .setInterval => if intervalValid v then none else some .intervalRange
  | .startCont => if intervalValid v then none else some .intervalRange
  | .setFrc => if frcValid cfg v then none else some .frcRange
  | .setAlt => none
  | .setToff => none
  | .setAsc => none
  | .getFw => none
  | .softReset => none
  | .stopCont => none
  | .getReady => none
  | .readMeas => none
  | .getToff => none
  | .getAlt => none

/-- `zext_16(e)`, the argument word of SET_ASC (R60, R67). -/
def ascWord (enable : Bool) : Word := if enable then 0x0001#16 else 0x0000#16

/-- The operand of SET_ASC: `a[0]`, with ValidationError(WIDTH) if a bit above it is set (R67). -/
def validateAsc (a : DWord) : Except Error (List Word) :=
  if a.extractLsb' 1 31 = 0#31 then .ok [ascWord (a.getLsbD 0)] else .error (.validation .width)

/-- The operand of a command without argument words: 0, else ValidationError(WIDTH) (R67). -/
def validateNone (a : DWord) : Except Error (List Word) :=
  if a = 0#32 then .ok [] else .error (.validation .width)

/-- The operand of a command with a u16 argument: width before domain (R67, 60_exceptions.md R109). -/
def validateU16 (cfg : Config) (c : Command) (a : DWord) : Except Error (List Word) :=
  match operandU16 a with
  | .error e => .error e
  | .ok v =>
    match domainFault cfg c v with
    | some cause => .error (.validation cause)
    | none => .ok [v]

/-- `validate(c, a)` (R67). -/
def validate (cfg : Config) (c : Command) (a : DWord) : Except Error (List Word) :=
  if argWords c = 0 then validateNone a
  else if c = .setAsc then validateAsc a
  else validateU16 cfg c a

end Sys2Proof.Machine
end

