-- ==== Sys2Proof/Machine/Cke.lean ====
section
/-! DEFINITION. The operations of the checksum engine (40_checksum.md R40, R41). -/

namespace Sys2Proof.Machine

/-- CRC8 (R40). -/
def execCrc8 (a : DWord) (s : State) : Step :=
  match operandU16 a with
  | .error e => .next (raise e s)
  | .ok w => .next (ret (.u8 (crc8Word w)) (crcPass w s))

/-- VERIFY (R41). -/
def execVerify (a : DWord) (b : Byte) (s : State) : Step :=
  match operandU16 a with
  | .error e => .next (raise e s)
  | .ok w => .next (ret (.bool (crc8Word w == b)) (crcPass w s))

end Sys2Proof.Machine
end

