-- ==== Sys2Proof/Machine/Sequencer.lean ====
section
/-! DEFINITION. The exchange sequencer (43_exchange_sequencer.md R75 to R82): for a catalog command and its operand, the row of
R75's table that the phase selects. Each row is one step (log 23); while no answer comes the block stays as it is (log 10). -/

namespace Sys2Proof.Machine

/-- VALIDATE (R75, R76). -/
def seqValidate (c : Command) (a : DWord) (s : State) : Step :=
  match validate s.cfg c a with
  | .error e => .next (raise e s)
  | .ok args => .next (enter .encode { s with reqArgs := args })

/-- ENCODE (R75, R77): the frame of `REQ_ARGS` goes to TXBUF, each of its wire words through the engine. -/
def seqEncode (c : Command) (s : State) : Step :=
  match txWrite s.txbuf 0 (frame s.cfg c s.reqArgs) with
  | .error f => .fault f
  | .ok m =>
    .next (enter .transmit
      { crcPasses (frameWords s.cfg c s.reqArgs) s with txbuf := m, txlen := (frame s.cfg c s.reqArgs).length })

/-- TRANSMIT (R75, R78): issue the BusWrite, then wait for its answer. -/
def seqTransmit (s : State) : Step :=
  if s.outstanding then
    match answer s with
    | some .writeOk => .next (enter .await s)
    | some (.fail k) => .next (raise (.transport k) s)
    | _ => .next s
  else
    match txRead s.txbuf 0 s.txlen with
    | .error f => .fault f
    | .ok bytes => .next (issue (.write s.cfg.devAddr bytes) s)

/-- AWAIT (R75, R79): issue the Wait, then wait for `Done`. -/
def seqAwait (c : Command) (s : State) : Step :=
  if s.outstanding then
    match answer s with
    | some .done => if respWords c = 0 then .next (ret .unit s) else .next (enter .receive s)
    | _ => .next s
  else .next (issue (.wait (delayMs s.cfg c)) s)

/-- RECEIVE (R75, R80): issue the BusRead, then wait for its answer, stored as it is. -/
def seqReceive (c : Command) (s : State) : Step :=
  if s.outstanding then
    match answer s with
    | some (.readOk bytes) => .next (enter .decode (loadRx bytes s))
    | some (.fail k) => .next (raise (.transport k) s)
    | _ => .next s
  else .next (issue (.read s.cfg.devAddr (Config.wireWordBytes * respWords c)) s)

/-- DECODE (R75, R81). -/
def seqDecode (c : Command) (s : State) : Step :=
  .next (finishDecode s.rxbuf (respWords c) (decodeResult c) s)

/-- One step of the exchange of command `c` with operand `a`. In IDLE or DONE it is the start of the exchange at acceptance
(R74). -/
def seqStep (c : Command) (a : DWord) (s : State) : Step :=
  match s.phase with
  | .idle => .next (enter .validate s)
  | .done => .next (enter .validate s)
  | .validate => seqValidate c a s
  | .encode => seqEncode c s
  | .transmit => seqTransmit s
  | .await => seqAwait c s
  | .receive => seqReceive c s
  | .decode => seqDecode c s

end Sys2Proof.Machine
end

