-- ==== Sys2Proof/Machine/Commands.lean ====
section
/-! DEFINITION. The catalog command operations (44_commands.md R87 to R101): each is one exchange through the sequencer, with
its own entry of the catalog. -/

namespace Sys2Proof.Machine

/-- GET_FW (R87): the step of its exchange that the phase selects. -/
def execGetFw (a : DWord) (s : State) : Step := seqStep .getFw a s

/-- SOFT_RESET (R88): the step of its exchange that the phase selects. -/
def execSoftReset (a : DWord) (s : State) : Step := seqStep .softReset a s

/-- START_CONT (R89): the step of its exchange that the phase selects. -/
def execStartCont (a : DWord) (s : State) : Step := seqStep .startCont a s

/-- STOP_CONT (R90): the step of its exchange that the phase selects. -/
def execStopCont (a : DWord) (s : State) : Step := seqStep .stopCont a s

/-- SET_INTERVAL (R91): the step of its exchange that the phase selects. -/
def execSetInterval (a : DWord) (s : State) : Step := seqStep .setInterval a s

/-- GET_READY (R92): the step of its exchange that the phase selects. -/
def execGetReady (a : DWord) (s : State) : Step := seqStep .getReady a s

/-- READ_MEAS (R94): the step of its exchange that the phase selects. -/
def execReadMeas (a : DWord) (s : State) : Step := seqStep .readMeas a s

/-- SET_TOFF (R95): the step of its exchange that the phase selects. -/
def execSetToff (a : DWord) (s : State) : Step := seqStep .setToff a s

/-- GET_TOFF (R96): the step of its exchange that the phase selects. -/
def execGetToff (a : DWord) (s : State) : Step := seqStep .getToff a s

/-- SET_ALT (R97): the step of its exchange that the phase selects. -/
def execSetAlt (a : DWord) (s : State) : Step := seqStep .setAlt a s

/-- GET_ALT (R98): the step of its exchange that the phase selects. -/
def execGetAlt (a : DWord) (s : State) : Step := seqStep .getAlt a s

/-- SET_PRESSURE (R99): the step of its exchange that the phase selects. -/
def execSetPressure (a : DWord) (s : State) : Step := seqStep .setPressure a s

/-- SET_ASC (R100): the step of its exchange that the phase selects. -/
def execSetAsc (a : DWord) (s : State) : Step := seqStep .setAsc a s

/-- SET_FRC (R101): the step of its exchange that the phase selects. -/
def execSetFrc (a : DWord) (s : State) : Step := seqStep .setFrc a s

end Sys2Proof.Machine
end

