-- ==== Sys2Proof/Machine/Frm.lean ====
section
/-! DEFINITION. The operations of the framer (42_command_catalog.md R71, R72), and the refusal of selectors that name no
operation (30_encoding.md R33, 60_exceptions.md R107). -/

namespace Sys2Proof.Machine

/-- SERIALIZE (R71): the frame is returned as a result; TXBUF is not written (20_memory.md R21, log 14). -/
def execSerialize (cmd : Byte) (a : DWord) (s : State) : Step :=
  match operandCommand cmd with
  | .error e => .next (raise e s)
  | .ok c =>
    match validate s.cfg c a with
    | .error e => .next (raise e s)
    | .ok args => .next (ret (.bytes (frame s.cfg c args)) (crcPasses (frameWords s.cfg c args) s))

/-- DEFRAME (R72). -/
def execDeframe (cmd : Byte) (data : List Byte) (s : State) : Step :=
  match operandCommand cmd with
  | .error e => .next (raise e (loadRx data s))
  | .ok c => .next (finishDecode data (respWords c) (decodeResult c) (loadRx data s))

/-- A reserved selector: UnsupportedOp(opsel), and nothing else (R33, R107; log 19). -/
def execReserved (opsel : Byte) (s : State) : Step := .next (raise (.unsupported opsel) s)

/-- SET_READY (44_commands.md R93): UnsupportedOp(0x16), always. -/
def execSetReady (s : State) : Step := .next (raise (.unsupported 0x16#8) s)

end Sys2Proof.Machine
end

