-- ==== Sys2Proof/Machine/Wcd.lean ====
section
/-! DEFINITION. The operations of the word codec (41_word_codec.md R47 to R53). -/

namespace Sys2Proof.Machine

/-- The two words of a 32-bit value through the engine and out as wire words, high word first (R45, R48, R49). -/
def encodeWords32 (v : DWord) (s : State) : Step :=
  .next (ret (.bytes (wire32 v)) (crcPasses [hiWord v, loWord v] s))

/-- ENC_U16 (R47). -/
def execEncU16 (a : DWord) (s : State) : Step :=
  match operandU16 a with
  | .error e => .next (raise e s)
  | .ok v => .next (ret (.bytes (wire v)) (crcPass v s))

/-- ENC_U32 (R48). -/
def execEncU32 (a : DWord) (s : State) : Step := encodeWords32 a s

/-- ENC_F32 (R49): the pattern is never converted or rounded. -/
def execEncF32 (a : DWord) (s : State) : Step := encodeWords32 a s

/-- DEC_WORDS (R50). -/
def execDecWords (b : Byte) (data : List Byte) (s : State) : Step :=
  match operandCount b with
  | .error e => .next (raise e (loadRx data s))
  | .ok n => .next (finishDecode data n .words (loadRx data s))

/-- DEC_U16 (R51). -/
def execDecU16 (data : List Byte) (s : State) : Step :=
  .next (finishDecode data 1 (fun ws => .u16 (nthWord ws 0)) (loadRx data s))

/-- DEC_U32 (R52). -/
def execDecU32 (data : List Byte) (s : State) : Step :=
  .next (finishDecode data 2 (fun ws => .u32 (joinWords (nthWord ws 0) (nthWord ws 1))) (loadRx data s))

/-- DEC_F32 (R53): the pattern is returned unchanged. -/
def execDecF32 (data : List Byte) (s : State) : Step :=
  .next (finishDecode data 2 (fun ws => .b32 (joinWords (nthWord ws 0) (nthWord ws 1))) (loadRx data s))

end Sys2Proof.Machine
end

