-- ==== Sys2Proof/Machine/Dispatch.lean ====
section
/-! DEFINITION. The meaning of every operation: one arm for each row of the opcode table (30_encoding.md R30). -/

namespace Sys2Proof.Machine

def exec (i : Instr) (s : State) : Host.Outcome State Fault Refusal :=
  match i with
  | .crc8 a => Sys2Proof.Machine.execCrc8 a s
  | .verify a b => Sys2Proof.Machine.execVerify a b s
  | .encU16 a => Sys2Proof.Machine.execEncU16 a s
  | .encU32 a => Sys2Proof.Machine.execEncU32 a s
  | .encF32 a => Sys2Proof.Machine.execEncF32 a s
  | .decU16 data => Sys2Proof.Machine.execDecU16 data s
  | .decU32 data => Sys2Proof.Machine.execDecU32 data s
  | .decF32 data => Sys2Proof.Machine.execDecF32 data s
  | .decWords b data => Sys2Proof.Machine.execDecWords b data s
  | .serialize cmd a => Sys2Proof.Machine.execSerialize cmd a s
  | .deframe cmd data => Sys2Proof.Machine.execDeframe cmd data s
  | .getFw a => Sys2Proof.Machine.execGetFw a s
  | .softReset a => Sys2Proof.Machine.execSoftReset a s
  | .startCont a => Sys2Proof.Machine.execStartCont a s
  | .stopCont a => Sys2Proof.Machine.execStopCont a s
  | .setInterval a => Sys2Proof.Machine.execSetInterval a s
  | .getReady a => Sys2Proof.Machine.execGetReady a s
  | .setReady => Sys2Proof.Machine.execSetReady s
  | .readMeas a => Sys2Proof.Machine.execReadMeas a s
  | .setToff a => Sys2Proof.Machine.execSetToff a s
  | .getToff a => Sys2Proof.Machine.execGetToff a s
  | .setAlt a => Sys2Proof.Machine.execSetAlt a s
  | .getAlt a => Sys2Proof.Machine.execGetAlt a s
  | .setPressure a => Sys2Proof.Machine.execSetPressure a s
  | .setAsc a => Sys2Proof.Machine.execSetAsc a s
  | .setFrc a => Sys2Proof.Machine.execSetFrc a s

end Sys2Proof.Machine
end

