-- ==== Sys2Proof/Machine/Flags.lean ====
section
/-! DEFINITION. The block has no flags and no status register (10_state.md R18): no operation computes one. What it shows is
derived from `PHASE` and nothing else. -/

namespace Sys2Proof.Machine

/-- The 3-bit value of `PHASE` (R10). -/
def Phase.code : Phase → BitVec 3
  | .idle => 0#3
  | .validate => 1#3
  | .encode => 2#3
  | .transmit => 3#3
  | .await => 4#3
  | .receive => 5#3
  | .decode => 6#3
  | .done => 7#3

/-- `REQ_READY`: a new request may be accepted (R18). -/
def reqReady (s : State) : Bool := s.phase = .idle || s.phase = .done

/-- `BUSY` (R18). -/
def busy (s : State) : Bool := !reqReady s

/-- `DONE_OUT`: an outcome is available in `RES` or `ERR` (R18). -/
def doneOut (s : State) : Bool := s.phase = .done

/-- What a reader of `RES` gets: no value while `RES_VALID` = 0 (10_state.md R15, I19). -/
def resOut (s : State) : Option Result := if s.resValid then s.res else none

end Sys2Proof.Machine
end

