-- ==== Sys2Proof/Machine/Fetch.lean ====
section
/-! DEFINITION. What a step runs: the request handshake (43_exchange_sequencer.md R74) and the operation the latched request
started (20_memory.md R27). -/

namespace Sys2Proof.Machine

/-- What there is to run at a step. -/
inductive Fetched where
  /-- ready, with no request at the port -/
  | idle
  /-- an operation, and the state it runs in -/
  | run (i : Instr) (s : State)
  /-- a reserved selector, and the state it is refused in (30_encoding.md R33) -/
  | reserved (opsel : Byte) (s : State)
deriving DecidableEq, Repr

/-- The operation that latched fields select, to be run in `s`; what they can be rejected for is a reserved selector. -/
def fetchedOf (q : ReqFields) (s : State) : Fetched :=
  match q.decode with
  | .ok i => .run i s
  | .error _ => .reserved q.opsel s

/-- The next thing to run. Ready: the request at the port is accepted (R74). Busy: the request port is not looked at, and the
latched request goes on (R27, R74; log 22). -/
def fetch (s : State) : Fetched :=
  if reqReady s then
    match s.requests with
    | [] => .idle
    | r :: rest => fetchedOf r.fields (accept r rest s)
  else
    fetchedOf s.req s

/-- The reset input at this step (70_reset_and_hazards.md R114). -/
def resetAsserted (s : State) : Bool := (currentInput s).reset

/-- The input list with the reset input of this step released. -/
def releaseReset : List Input → List Input
  | [] => []
  | i :: rest => { i with reset := false } :: rest

/-- A state in which the very next step accepts request `r` (log 21): `r` stands at the request port, the block is ready, and
the reset input is released. -/
def present (r : Request) (s : State) : State :=
  { s with
    requests := r :: s.requests.tail
    phase := if reqReady s then s.phase else .idle
    outstanding := if reqReady s then s.outstanding else false
    inputs := releaseReset s.inputs }

end Sys2Proof.Machine
end

