-- ==== Sys2Proof/Machine/Step.lean ====
section
/-! DEFINITION. One step of the machine. Reset comes first (70_reset_and_hazards.md R114); else the operation of the request
that is accepted or in progress takes its step (43_exchange_sequencer.md R74, R75); with nothing to do the block stays idle. -/

namespace Sys2Proof.Machine

/-- One step. -/
def step (s : State) : Host.Outcome State Fault Refusal :=
  if resetAsserted s then .next (tick (resetBlock s))
  else match fetch s with
    | .idle => .next (tick s)
    | .run i t => thenTick (exec i t)
    | .reserved opsel t => thenTick (execReserved opsel t)

/-- `s` with the request of an opcode-table word presented, so that the very next step accepts and runs it. -/
def State.withFetchWord (s : State) (nbits w : Nat) : State := present (tableRequest nbits w) s

end Sys2Proof.Machine
end

