-- ==== Sys2Proof/Machine/Exchange.lean ====
section
/-! DEFINITION. The exchange of a catalog command as one function of its operand and of the answers of the external agents
(43_exchange_sequencer.md R83). The step does not call it: it is the spec's second description of the exchange, and
statements hold the sequencer against it. -/

namespace Sys2Proof.Machine

/-- `exchange(c, a)` (R83), given what the transport answers to the BusWrite and, if it is reached, to the BusRead: the trace
of port events and the outcome. -/
def exchange (cfg : Config) (c : Command) (a : DWord) (onWrite : Except TKind Unit) (onRead : Except TKind (List Byte)) :
    List PortEvent × Except Error Result :=
  match validate cfg c a with
  | .error e => ([], .error e)
  | .ok args =>
    match onWrite with
    | .error k => ([.write cfg.devAddr (frame cfg c args)], .error (.transport k))
    | .ok () =>
      if respWords c = 0 then
        ([.write cfg.devAddr (frame cfg c args), .wait (delayMs cfg c)], .ok .unit)
      else
        ([.write cfg.devAddr (frame cfg c args), .wait (delayMs cfg c),
          .read cfg.devAddr (Config.wireWordBytes * respWords c)],
         match onRead with
         | .error k => .error (.transport k)
         | .ok bytes => deframe c bytes)

/-- `s` holds the outcome of an operation (10_state.md R15, R16): DONE, with the result valid or the error recorded. -/
def holdsOutcome (o : Except Error Result) (s : State) : Prop :=
  s.phase = .done ∧
    match o with
    | .ok v => s.resValid = true ∧ s.res = some v ∧ s.err = ErrReg.clear
    | .error e => s.resValid = false ∧ s.err = e.reg

end Sys2Proof.Machine
end

