-- ==== Sys2Proof/Safety.lean ====
section
/-! DEFINITION. What counts as a safe state: the invariant of the machine, and the order of its port events. Claims are stated
in these terms. -/

namespace Sys2Proof.Safety

open Sys2Proof.Machine

/-- The buffers and their lengths agree (10_state.md R13, R14; R11 for `REQ_ARGS`): TXBUF is in canonical form and within its
six bytes, its first `TXLEN` bytes are set, `RXLEN` is the length of RXBUF, and `REQ_ARGS` holds at most one word. -/
def BufferInv (s : State) : Prop :=
  Memory.wf s.txbuf = true ∧ (∀ c ∈ s.txbuf, c.1 < Config.txCapacity) ∧ s.txlen ≤ Config.txCapacity ∧
    (∀ i, i < s.txlen → (Memory.read s.txbuf i).isSome = true) ∧ s.rxlen = s.rxbuf.length ∧
    s.reqArgs.length ≤ Config.maxArgWords

/-- The outcome registers (10_state.md R15, R16): in DONE exactly one of a valid result and an error, else neither; and
RES is unset whenever `RES_VALID` is 0 (93_implementation_defined.md I19). -/
def OutcomeInv (s : State) : Prop :=
  if s.phase = .done then
    (s.resValid = true ∧ s.res.isSome = true ∧ s.err = ErrReg.clear) ∨ (s.resValid = false ∧ s.res = none ∧ ∃ e : Error, s.err = e.reg)
  else s.resValid = false ∧ s.res = none ∧ s.err = ErrReg.clear

/-- How far the exchange of command `c` with operand `a` is (43_exchange_sequencer.md R75): what each phase has to have
validated, built and issued. From ENCODE on, `REQ_ARGS` holds the validated arguments. -/
def ProgressInv (c : Command) (a : DWord) (s : State) : Prop :=
  match s.phase with
  | .idle => True
  | .done => True
  | .validate => s.outstanding = false
  | .encode => s.outstanding = false ∧ validate s.cfg c a = .ok s.reqArgs
  | .transmit =>
    validate s.cfg c a = .ok s.reqArgs ∧ txRead s.txbuf 0 s.txlen = .ok (frame s.cfg c s.reqArgs) ∧
      (s.outstanding = true → ∃ before, s.trace = before ++ [.write s.cfg.devAddr (frame s.cfg c s.reqArgs)])
  | .await =>
    validate s.cfg c a = .ok s.reqArgs ∧
      ∃ before, s.trace = before ++ [.write s.cfg.devAddr (frame s.cfg c s.reqArgs)] ++
        (if s.outstanding then [.wait (delayMs s.cfg c)] else [])
  | .receive =>
    respWords c ≠ 0 ∧ validate s.cfg c a = .ok s.reqArgs ∧
      ∃ before, s.trace = before ++ [.write s.cfg.devAddr (frame s.cfg c s.reqArgs), .wait (delayMs s.cfg c)] ++
        (if s.outstanding then [.read s.cfg.devAddr (Config.wireWordBytes * respWords c)] else [])
  | .decode =>
    s.outstanding = false ∧ respWords c ≠ 0 ∧ validate s.cfg c a = .ok s.reqArgs ∧
      ∃ before, s.trace = before ++ [.write s.cfg.devAddr (frame s.cfg c s.reqArgs), .wait (delayMs s.cfg c),
        .read s.cfg.devAddr (Config.wireWordBytes * respWords c)]

/-- Ready: no transaction is outstanding. Busy: `REQ` holds a catalog command, and its exchange is where the phase says. -/
def SequencerInv (s : State) : Prop :=
  if reqReady s then s.outstanding = false
  else ∃ c : Command, s.req.decode = .ok (c.toInstr s.req.a) ∧ ProgressInv c s.req.a s

/-- The invariant of the machine. -/
def Invariant (s : State) : Prop := BufferInv s ∧ OutcomeInv s ∧ SequencerInv s

/-- May event `e` directly follow `prev` in the trace (20_memory.md R26)? A BusWrite may follow anything, a Wait only a
BusWrite, a BusRead only a Wait. -/
def mayFollow (prev : Option PortEvent) (e : PortEvent) : Bool :=
  match e, prev with
  | .write _ _, _ => true
  | .wait _, some (.write _ _) => true
  | .read _ _, some (.wait _) => true
  | _, _ => false

/-- Every event of a trace may follow the one before it. -/
def orderedFrom (prev : Option PortEvent) : List PortEvent → Bool
  | [] => true
  | e :: rest => mayFollow prev e && orderedFrom (some e) rest

/-- The order of the port events within and between exchanges (R26). -/
def TraceOrdered (s : State) : Prop := orderedFrom none s.trace = true

/-- A step that goes on: neither a fault nor a refusal. -/
def GoesOn (o : Host.Outcome State Fault Refusal) : Prop := ∃ t, o = .next t

end Sys2Proof.Safety
end

