-- ==== Sys2Proof/Certificates/Slice0/Obligations.lean ====
section
/-! DEFINITION. The statements about the machine, for the provers. Helper definitions stand first, under `Sys2Proof.Stmt`: they
write next states, frames and exchanges out from the spec's words, apart from the functions the meanings call. -/

namespace Sys2Proof.Stmt

open Sys2Proof.Machine

/-! ### Outcomes, written out -/

/-- The state `return v` leaves (00_scope.md R7). -/
def returned (v : Result) (s : State) : State :=
  { s with res := some v, resValid := true, err := ⟨0x00#8, .none⟩, phase := .done, outstanding := false }

/-- The state `raise` leaves, with the code and the information written to `ERR` (60_exceptions.md R108). -/
def raised (code : Byte) (info : ErrInfo) (s : State) : State :=
  { s with err := ⟨code, info⟩, resValid := false, phase := .done, outstanding := false }

/-- The state each error leaves, with its code of R102. -/
def raisedAs (e : Error) (s : State) : State :=
  match e with
  | .validation c => raised 0x01#8 (.cause c) s
  | .checksum k => raised 0x02#8 (.wordIndex k) s
  | .transport k => raised 0x03#8 (.kind k) s
  | .decode n len => raised 0x04#8 (.wordCount n len) s
  | .unsupported sel => raised 0x05#8 (.selector sel) s

/-- The state an outcome leaves. -/
def ended (o : Except Error Result) (s : State) : State :=
  match o with
  | .ok v => returned v s
  | .error e => raisedAs e s

/-- The state after a decode operation has loaded RXBUF and verified its bytes (R14, R46; log 12, 13). -/
def checked (bytes : List Byte) (s : State) : State :=
  { s with
    rxbuf := bytes, rxlen := bytes.length
    crcreg := (verifyFrom 0 s.crcreg s.widx bytes).crcreg
    widx := (verifyFrom 0 s.crcreg s.widx bytes).widx }

/-! ### Words and bytes -/

/-- `v[15:8]` and `v[7:0]`. -/
def bytesOf (w : Word) : List Byte := [w.extractLsb' 8 8, w.extractLsb' 0 8]

/-- The wire word of R34: two data bytes, most significant first, then the checksum. -/
def wireOf (w : Word) : List Byte := bytesOf w ++ [crc8Word w]

/-- A word count of 0 or 1 words as a list element, for results of exactly that many words. -/
def word (ws : List Word) (k : Nat) : Word := ws.getD k 0#16

/-- `(hi, lo)` as one 32-bit pattern, hi in the upper bits. -/
def pair (ws : List Word) (k : Nat) : DWord := (word ws k ++ word ws (k + 1) : BitVec (16 + 16))

/-- The data word of wire word `k` of a byte list (R46). -/
def wordAt (bytes : List Byte) (k : Nat) : Word := (bytes.getD (3 * k) 0 ++ bytes.getD (3 * k + 1) 0 : BitVec (8 + 8))

/-- Wire word `k` of a byte list fails: its third byte is not the checksum of its first two (R46, R104). -/
def badAt (bytes : List Byte) (k : Nat) : Prop := crc8Word (wordAt bytes k) ≠ bytes.getD (3 * k + 2) 0

/-! ### The checksum, written out on natural numbers -/

/-- One of the eight shifts of R39 on a register value below 256. -/
def bitStep (c : Nat) : Nat := if 128 ≤ c then (2 * c) % 256 ^^^ 0x31 else (2 * c) % 256

/-- One byte of R39: XORed in, then eight shifts. -/
def byteStep (c : Nat) (d : Byte) : Nat := bitStep^[8] (c ^^^ d.toNat)

/-- The remainder of a polynomial over GF(2) modulo `x^8 + x^5 + x^4 + 1`, by long division from degree `n + 7` downwards;
bit `i` of the number is the coefficient of `x^i` (R39). -/
def gf2Rem : Nat → Nat → Nat
  | 0, p => p
  | n + 1, p => gf2Rem n (if p.testBit (n + 8) then p ^^^ (0x131 <<< n) else p)

/-! ### Requests -/

/-- The reserved selectors of R33, less 0x16, which has a row of its own. -/
def reservedSelector (sel : Byte) : Prop :=
  sel = 0x00#8 ∨ (0x0C#8 ≤ sel ∧ sel ≤ 0x0F#8) ∨ 0x1F#8 ≤ sel

/-- The block is ready and a request for operation `i` stands at its port, `rest` behind it. -/
def Presents (s : State) (i : Instr) (rest : List Request) : Prop :=
  reqReady s = true ∧ ∃ r, s.requests = r :: rest ∧ decode r = .ok i

/-- What acceptance writes (R74), and that it clears RES (10_state.md R15). REQ_ARGS, which only VALIDATE writes (R11), stays
(log 16). -/
def latched (r : Request) (rest : List Request) (s : State) : State :=
  { s with
    req := ⟨r.word.extractLsb' 0 8, r.word.extractLsb' 8 8, r.word.extractLsb' 16 8, r.word.extractLsb' 24 32, r.data⟩
    res := none, resValid := false, err := ⟨0x00#8, .none⟩, requests := rest }

/-- The values of `validate(c, a)`, written out from the tables of R60 and R62 to R66 on the operand's number. -/
def argsOf (cfg : Config) (c : Command) (a : DWord) : Except Cause (List Word) :=
  let v := a.toNat
  let sent : List Word := [BitVec.ofNat 16 v]
  match c with
  | .getFw | .softReset | .stopCont | .getReady | .readMeas | .getToff | .getAlt => if v = 0 then .ok [] else .error .width
  | .setAsc => if v ≤ 1 then .ok sent else .error .width
  | .setToff | .setAlt => if v < 65536 then .ok sent else .error .width
  | .setPressure =>
    if v < 65536 then if v = 0 ∨ (700 ≤ v ∧ v ≤ 1400) then .ok sent else .error .pressureRange else .error .width
  | .setInterval | .startCont =>
    if v < 65536 then if 2 ≤ v ∧ v ≤ 1800 then .ok sent else .error .intervalRange else .error .width
  | .setFrc =>
    if v < 65536 then if cfg.frcMin.toNat ≤ v ∧ v ≤ cfg.frcMax.toNat then .ok sent else .error .frcRange else .error .width

/-! ### Runs -/

/-- `n` steps from `s` lead to `t`. -/
def Runs (n : Nat) (s t : State) : Prop := Host.Core.run Sys2Proof.core n s = .next t

/-- No reset and no answer. -/
def quiet : Input := ⟨false, none⟩

/-- An answer to transaction `n`, without a reset. -/
def answerTo (n : Nat) (a : Answer) : Input := ⟨false, some (n, a)⟩

/-- The answer to a BusWrite (R84). -/
def writeAnswer : Except TKind Unit → Answer
  | .ok () => .writeOk
  | .error k => .fail k

/-- The answer to a BusRead (R84). -/
def readAnswer : Except TKind (List Byte) → Answer
  | .ok bytes => .readOk bytes
  | .error k => .fail k

/-- What the outside world does while one exchange runs whose BusWrite is transaction `n`: acceptance, VALIDATE, ENCODE and
the issue of the BusWrite, and after any number of idle steps its answer; the issue of the Wait, and in time `Done`; the issue
of the BusRead, and in time its answer; and one step for DECODE. -/
def schedule (n : Nat) (w : Except TKind Unit) (r : Except TKind (List Byte)) (d₁ d₂ d₃ : Nat) : List Input :=
  List.replicate (4 + d₁) quiet ++ [answerTo n (writeAnswer w)] ++
    List.replicate (1 + d₂) quiet ++ [answerTo (n + 1) .done] ++
    List.replicate (1 + d₃) quiet ++ [answerTo (n + 2) (readAnswer r)] ++ [quiet]

/-- Every run of operation `i a` whose transactions are answered ends, with the port events and the outcome that `f` gives
for the operand and the answers; the request has left the port. -/
def RunsAs (i : DWord → Instr)
    (f : Config → DWord → Except TKind Unit → Except TKind (List Byte) → List PortEvent × Except Error Result) : Prop :=
  ∀ (s : State) (a : DWord) (rest : List Request) (w : Except TKind Unit) (r : Except TKind (List Byte))
    (d₁ d₂ d₃ : Nat) (after : List Input),
    Presents s (i a) rest → s.inputs = schedule s.trace.length w r d₁ d₂ d₃ ++ after →
    ∃ n t, Runs n s t ∧ t.requests = rest ∧ t.cfg = s.cfg ∧
      t.trace = s.trace ++ (f s.cfg a w r).1 ∧ holdsOutcome (f s.cfg a w r).2 t

/-- The request frame of R35 for command word `C` and at most one argument word. -/
def frameOf (cfg : Config) (C : Word) (arg : Option Word) : List Byte :=
  (if cfg.cmdWordCrc then wireOf C else bytesOf C) ++ (match arg with | none => [] | some v => wireOf v)

/-- The exchange of a command that reads `n > 0` words: no operand, command word `C`, delay `D` (44_commands.md). -/
def getForm (C : Word) (D n : Nat) (typed : List Word → Result) (cfg : Config) (a : DWord) (w : Except TKind Unit)
    (r : Except TKind (List Byte)) : List PortEvent × Except Error Result :=
  if a ≠ 0 then ([], .error (.validation .width))
  else match w with
    | .error k => ([.write cfg.devAddr (frameOf cfg C none)], .error (.transport k))
    | .ok () =>
      ([.write cfg.devAddr (frameOf cfg C none), .wait D, .read cfg.devAddr (3 * n)],
        match r with
        | .error k => .error (.transport k)
        | .ok bytes =>
          match decWords bytes n with
          | .error e => .error e
          | .ok ws => .ok (typed ws))

/-- The exchange of a command without a response: command word `C`, delay `D`, and either the argument to send or the cause
its validation fails with (44_commands.md). -/
def setForm (C : Word) (D : Nat) (arg : Except Cause (Option Word)) (cfg : Config) (w : Except TKind Unit) :
    List PortEvent × Except Error Result :=
  match arg with
  | .error cause => ([], .error (.validation cause))
  | .ok v =>
    match w with
    | .error k => ([.write cfg.devAddr (frameOf cfg C v)], .error (.transport k))
    | .ok () => ([.write cfg.devAddr (frameOf cfg C v), .wait D], .ok .unit)

/-- A u16 operand in a domain: WIDTH for bits above it, `cause` outside the domain, else the word itself. -/
def u16Arg (inDomain : Nat → Prop) [DecidablePred inDomain] (cause : Cause) (a : DWord) : Except Cause (Option Word) :=
  if 65536 ≤ a.toNat then .error .width
  else if inDomain a.toNat then .ok (some (BitVec.ofNat 16 a.toNat)) else .error cause

/-- A command without an operand: WIDTH unless it is 0. -/
def noArg (a : DWord) : Except Cause (Option Word) := if a = 0 then .ok none else .error .width

/-- The last step of a command without a response: once the Wait is answered, exec returns Unit (R75). -/
def ReturnsUnit (i : DWord → Instr) : Prop :=
  ∀ (a : DWord) (s : State), s.phase = .await → s.outstanding = true → answer s = some .done →
    exec (i a) s = .next (returned .unit s)

/-- The last step of a command that reads `n` words: from a received frame of `n` good words exec returns the typed value
(R75, R81), and the latch, the configuration and the trace stay. -/
def ReturnsTyped (i : DWord → Instr) (n : Nat) (typed : List Word → Result) : Prop :=
  ∀ (a : DWord) (s : State) (ws : List Word), s.phase = .decode → decWords s.rxbuf n = .ok ws →
    ∃ t, exec (i a) s = .next t ∧ t.phase = .done ∧ t.resValid = true ∧ t.res = some (typed ws) ∧ t.err = ⟨0x00#8, .none⟩ ∧
      t.req = s.req ∧ t.cfg = s.cfg ∧ t.trace = s.trace

/-- The reference configuration of the spec's examples (42_command_catalog.md R58), a premise wherever it is used. -/
def Reference (cfg : Config) : Prop := cfg.cmdAddr = Config.referenceCmdAddr ∧ cfg.cmdWordCrc = true

/-- Two states that the outside cannot tell apart, and that hold the same values wherever a later step reads one: equal
phase, ports, configuration, trace and outcome, and equal working registers only while their operation still needs them
(10_state.md R17, 43_exchange_sequencer.md R86). -/
def Alike (s t : State) : Prop :=
  s.phase = t.phase ∧ s.outstanding = t.outstanding ∧ s.cfg = t.cfg ∧ s.requests = t.requests ∧ s.inputs = t.inputs ∧
    s.trace = t.trace ∧ s.resValid = t.resValid ∧ s.err = t.err ∧ (s.resValid = true → s.res = t.res) ∧
    (busy s = true → s.req = t.req) ∧ (s.phase = .encode → s.reqArgs = t.reqArgs) ∧
    (s.phase = .transmit → s.outstanding = false → txRead s.txbuf 0 s.txlen = txRead t.txbuf 0 t.txlen) ∧
    (s.phase = .decode → s.rxbuf = t.rxbuf)

end Sys2Proof.Stmt

open Sys2Proof Sys2Proof.Machine Sys2Proof.Safety Sys2Proof.Stmt

/-! ### Reset and outputs -/

/-- 10_state.md R20, R114: the state right after reset. What REQ and REQ_ARGS hold, unspecified there, is opaque (log 1) and not
part of the statement, but that REQ_ARGS holds at most one word (R11). That the ports are empty then is the model's choice (log 7,
8, 11), and so are the opaque constants of the configuration (log 2). -/
def Obligations.ResetState : Prop :=
  State.reset.phase = .idle ∧ State.reset.reqArgs.length ≤ 1 ∧ State.reset.crcreg = 0xFF#8 ∧
    (∀ i, Memory.read State.reset.txbuf i = none) ∧ State.reset.txlen = 0 ∧ State.reset.rxbuf = [] ∧
    State.reset.rxlen = 0 ∧ State.reset.widx = 0 ∧ State.reset.res = none ∧ State.reset.resValid = false ∧
    State.reset.err = ⟨0x00#8, .none⟩ ∧ State.reset.outstanding = false

/-- 70_reset_and_hazards.md R114: a step with the reset input asserted, in any state, puts every register to its reset value and
keeps the configuration; a request presented then is accepted by the very next step; the device's soft-reset command never
resets the block. REQ and REQ_ARGS, unspecified then, hold the opaque values they hold in State.reset (log 1). -/
def Obligations.ResetStep : Prop :=
  (∀ s : State, resetAsserted s = true →
    ∃ t, step s = .next t ∧ t.phase = .idle ∧ t.req = State.reset.req ∧ t.reqArgs = State.reset.reqArgs ∧ t.crcreg = 0xFF#8 ∧
      (∀ k, Memory.read t.txbuf k = none) ∧ t.txlen = 0 ∧ t.rxbuf = [] ∧ t.rxlen = 0 ∧ t.widx = 0 ∧ t.res = none ∧
      t.resValid = false ∧ t.err = ⟨0x00#8, .none⟩ ∧ t.outstanding = false ∧ t.cfg = s.cfg ∧ reqReady t = true) ∧
  (∀ s t : State, ∀ i r rest, resetAsserted s = true → step s = .next t → t.requests = r :: rest → decode r = .ok i →
    resetAsserted t = false → step t = thenTick (exec i (latched r rest t))) ∧
  (∀ a s t, exec (.softReset a) s = .next t → t.phase ≠ .idle ∧ t.req = s.req ∧ t.cfg = s.cfg)

/-- 70_reset_and_hazards.md R115: a reset abandons the exchange without an outcome and undoes nothing on the bus; an answer
that comes afterwards, to a transaction issued before, is discarded, whether the block is idle or has issued new ones (how an
answer names its transaction is log 9). -/
def Obligations.LateAnswersDiscarded : Prop :=
  (∀ (s : State) (i : Input) (late : Option (Nat × Answer)) (rest : List Input),
    s.inputs = i :: ⟨false, late⟩ :: rest → i.reset = true → s.requests = [] →
    ∃ t, Runs 2 s t ∧ t.phase = .idle ∧ t.outstanding = false ∧ t.resValid = false ∧ t.res = none ∧
      t.err = ⟨0x00#8, .none⟩ ∧ t.trace = s.trace ∧ t.inputs = rest) ∧
  (∀ (s : State) (n : Nat) (a : Answer), (currentInput s).answer = some (n, a) →
    s.outstanding = false ∨ n + 1 < s.trace.length → answer s = none)

/-- 10_state.md R18: the outputs are derived from `PHASE` and nothing else. -/
def Obligations.OutputsFromPhase : Prop :=
  ∀ s t : State,
    (reqReady s = true ↔ s.phase = .idle ∨ s.phase = .done) ∧ busy s = !reqReady s ∧
    (doneOut s = true ↔ s.phase = .done) ∧
    (s.phase = t.phase → reqReady s = reqReady t ∧ busy s = busy t ∧ doneOut s = doneOut t)

/-! ### Requests -/

/-- 30_encoding.md R29, R30: request words of the spec's programs decode to the operations they stand for. -/
def Obligations.DecodesSampleWords : Prop :=
  decode ⟨0x0000BEEF000001#56, []⟩ = .ok (.crc8 0xBEEF#32) ∧
  decode ⟨0x0000BEEF920002#56, []⟩ = .ok (.verify 0xBEEF#32 0x92#8) ∧
  decode ⟨0x43CE4000000005#56, []⟩ = .ok (.encF32 0x43CE4000#32) ∧
  decode ⟨0x00000000020009#56, [0xBE, 0xEF, 0x92]⟩ = .ok (.decWords 2#8 [0xBE, 0xEF, 0x92]) ∧
  decode ⟨0x000003E8001A0A#56, []⟩ = .ok (.serialize 0x1A#8 1000#32) ∧
  decode ⟨0x00000000001B0B#56, [0x03, 0xE8, 0xD4]⟩ = .ok (.deframe 0x1B#8 [0x03, 0xE8, 0xD4]) ∧
  decode ⟨0x000003F500001C#56, []⟩ = .ok (.setPressure 1013#32) ∧
  decode ⟨0x00000000000016#56, []⟩ = .ok .setReady ∧
  decode ⟨0x0000000000001F#56, []⟩ = .error (.reserved 0x1F#8)

/-- 30_encoding.md R29 to R31: decoding the request of any operation gives that operation, with every operand at every
value, as a request and as its bytes. The byte form is the model's choice (log 20). -/
def Obligations.DecodeEncodeAgree : Prop :=
  ∀ i : Instr, decode (encode i) = .ok i ∧ decodeBytes (encode i).toBytes = .ok i

/-- 30_encoding.md R37: decoding is total. Every request either is reserved, by its selector alone, or selects one
operation, whose selector is its own. -/
def Obligations.EverySelectorDecodes : Prop :=
  ∀ r : Request,
    (reservedSelector r.fields.opsel ∧ decode r = .error (.reserved r.fields.opsel)) ∨
    (¬ reservedSelector r.fields.opsel ∧ ∃ i, decode r = .ok i ∧ i.opsel = r.fields.opsel ∧
      (r.WellFormed → i.WellFormed))

/-- 30_encoding.md R33: a reserved selector is accepted by the handshake and completes at once with UnsupportedOp; nothing but
the latch and the outcome changes: no checksum, no buffer write, no port event. That RES is unset then, and not only invalid,
is log 15, that REQ_ARGS keeps its value log 16, and that the step uses up one input log 8. -/
def Obligations.ReservedSelectorsRefused : Prop :=
  ∀ (s : State) (r : Request) (rest : List Request), reqReady s = true → resetAsserted s = false →
    s.requests = r :: rest → (reservedSelector r.fields.opsel ∨ r.fields.opsel = 0x16#8) →
    step s = .next { raised 0x05#8 (.selector r.fields.opsel) (latched r rest s) with inputs := s.inputs.tail }

/-- 44_commands.md R93: SET_READY raises UnsupportedOp(0x16) at acceptance, always, whatever its other fields hold, and does
nothing else. -/
def Obligations.SetReadyRefused : Prop :=
  (∀ s : State, exec .setReady s = .next (raised 0x05#8 (.selector 0x16#8) s)) ∧
  (∀ r : Request, r.word.extractLsb' 0 8 = 0x16#8 → decode r = .ok .setReady) ∧
  (∀ (s : State) (rest : List Request), Presents s .setReady rest → resetAsserted s = false →
    ∃ t, step s = .next t ∧ t.phase = .done ∧ t.err = ⟨0x05#8, .selector 0x16#8⟩ ∧ t.resValid = false ∧ t.trace = s.trace ∧
      t.crcreg = s.crcreg ∧ t.txbuf = s.txbuf ∧ t.txlen = s.txlen ∧ t.rxbuf = s.rxbuf)

/-- 43_exchange_sequencer.md R74: a request is accepted only in IDLE or DONE, and what acceptance does in that one step, for
every selector; a request presented while the block is busy stays at the port, and neither it nor any other request has an
effect on the running exchange. That acceptance leaves RES unset is log 15, that REQ_ARGS keeps its value log 16, that the
port is a list log 7, and that a step uses up one input log 8. -/
def Obligations.RequestHandshake : Prop :=
  (∀ (s : State) (r : Request) (rest : List Request), reqReady s = true → resetAsserted s = false →
    s.requests = r :: rest →
    (reservedSelector r.fields.opsel ∨ r.fields.opsel = 0x16#8 →
      step s = .next { raised 0x05#8 (.selector r.fields.opsel) (latched r rest s) with inputs := s.inputs.tail }) ∧
    (∀ i, decode r = .ok i → i.isPure = true →
      ∃ t, step s = .next t ∧ t.phase = .done ∧ t.req = (latched r rest s).req ∧ t.requests = rest ∧
        step s = thenTick (exec i (latched r rest s))) ∧
    (∀ c a, decode r = .ok (Command.toInstr c a) →
      step s = .next { latched r rest s with phase := .validate, outstanding := false, inputs := s.inputs.tail })) ∧
  (∀ s t : State, busy s = true → resetAsserted s = false → step s = .next t →
    t.requests = s.requests ∧ t.req = s.req ∧
    ∀ qs : List Request, step { s with requests := qs } = .next { t with requests := qs })

/-- 43_exchange_sequencer.md R74, R75, 20_memory.md R27: without reset, a step of a ready block is exec of the operation that
the presented request decodes to, in the state acceptance leaves; a step of a busy block is exec of the operation that the
latched request decodes to, in the state as it is; then the input of the next step comes up (log 8). A reserved selector decodes
to no operation, and ReservedSelectorsRefused says what its step does. The state acceptance leaves has RES unset (log 15) and
REQ_ARGS as it was (log 16). A busy block whose latch holds another operation than a catalog command, which no run leads to, runs
that operation (log 22). -/
def Obligations.StepRunsDecoded : Prop :=
  (∀ (s : State) (r : Request) (rest : List Request) (i : Instr), reqReady s = true → resetAsserted s = false →
    s.requests = r :: rest → decode r = .ok i → step s = thenTick (exec i (latched r rest s))) ∧
  (∀ (s : State) (i : Instr), busy s = true → resetAsserted s = false → s.req.decode = .ok i →
    step s = thenTick (exec i s))

/-! ### The checksum engine -/

/-- 40_checksum.md R39: the bit-serial algorithm, and the polynomial remainder that the rule derives from it ("Equivalently,
CRC8(w) is the remainder of …", marked derived there, as are the values of R40's corner cases). -/
def Obligations.ChecksumIsRemainder : Prop :=
  (∀ bytes : List Byte, (crc8 bytes).toNat = bytes.foldl byteStep 0xFF) ∧
  (∀ w : Word, crc8Word w = crc8 (bytesOf w)) ∧
  (∀ w : Word, (crc8Word w).toNat = gf2Rem 16 ((0xFF <<< 16) ^^^ (w.toNat <<< 8))) ∧
  crc8Word 0x0000#16 = 0x81#8 ∧ crc8Word 0xFFFF#16 = 0xAC#8 ∧ crc8Word 0xFF00#16 = 0x00#8 ∧ crc8Word 0xBEEF#16 = 0x92#8

/-- 40_checksum.md R40: CRC8, with its width check, for every operand and state. -/
def Obligations.Crc8Operation : Prop :=
  ∀ (a : DWord) (s : State), exec (.crc8 a) s = .next
    (if 65536 ≤ a.toNat then raised 0x01#8 (.cause .width) s
     else returned (.u8 (crc8Word (BitVec.ofNat 16 a.toNat))) { s with crcreg := crc8Word (BitVec.ofNat 16 a.toNat) })

/-- 40_checksum.md R41: VERIFY, with its width check, for every word, check byte and state. -/
def Obligations.VerifyOperation : Prop :=
  ∀ (a : DWord) (c : Byte) (s : State), exec (.verify a c) s = .next
    (if 65536 ≤ a.toNat then raised 0x01#8 (.cause .width) s
     else returned (.bool (decide (crc8Word (BitVec.ofNat 16 a.toNat) = c)))
       { s with crcreg := crc8Word (BitVec.ofNat 16 a.toNat) })

/-- 40_checksum.md R41, R43 (both marked derived there): for each word exactly one check byte verifies, its checksum, and no
single-bit corruption of it does. -/
def Obligations.OneCheckByteVerifies : Prop :=
  ∀ (w : Word) (s : State),
    (∃! c : Byte, ∃ t, exec (.verify (w.setWidth 32) c) s = .next t ∧ t.res = some (.bool true)) ∧
    (∃ t, exec (.verify (w.setWidth 32) (crc8Word w)) s = .next t ∧ t.resValid = true ∧ t.res = some (.bool true)) ∧
    (∀ bit : Fin 8, ∃ t, exec (.verify (w.setWidth 32) (crc8Word w ^^^ (1#8 <<< bit.val))) s = .next t ∧
      t.resValid = true ∧ t.res = some (.bool false))

/-- 40_checksum.md R43: CRC8 is affine, and for each upper byte every check value comes from exactly one lower byte (so over all
65536 words each of the 256 check values occurs 256 times). -/
def Obligations.ChecksumAffineAndBalanced : Prop :=
  (∀ a b : Word, crc8Word (a ^^^ b) = crc8Word a ^^^ crc8Word b ^^^ crc8Word 0#16) ∧
  (∀ (hi check : Byte), ∃! lo : Byte, crc8Word (hi ++ lo : BitVec (8 + 8)) = check)

/-- 40_checksum.md R43: every error of 1, 2 or 3 flipped bits in the 24-bit wire word is detected. The flipped bits are `i`,
`j` and `k`, which need not differ. -/
def Obligations.ShortErrorsDetected : Prop :=
  ∀ (w : Word) (i j k : Fin 24),
    let flips : BitVec 24 := (1#24 <<< i.val) ||| (1#24 <<< j.val) ||| (1#24 <<< k.val)
    let received : BitVec 24 := (w ++ crc8Word w : BitVec (16 + 8)) ^^^ flips
    crc8Word (received.extractLsb' 8 16) ≠ received.extractLsb' 0 8

/-! ### The word codec -/

/-- 41_word_codec.md R46: `dec_words` by indices. The first complete wire word that fails is the one reported; a wrong length is
reported only if none fails; else the words are those of the list. `WIDX` and `CRCREG` are left as the last word checked
leaves them (the model's reading, log 13). -/
def Obligations.DecWordsByIndex : Prop :=
  ∀ (bytes : List Byte) (n : Nat) (s : State),
    (∀ k, k < bytes.length / 3 → badAt bytes k → (∀ j, j < k → ¬ badAt bytes j) →
      decWords bytes n = .error (.checksum k) ∧ (afterVerify bytes s).widx = k ∧
        (afterVerify bytes s).crcreg = crc8Word (wordAt bytes k)) ∧
    ((∀ k, k < bytes.length / 3 → ¬ badAt bytes k) →
      decWords bytes n = (if bytes.length = 3 * n then .ok ((List.range n).map (wordAt bytes))
        else .error (.decode n bytes.length)) ∧
      (0 < bytes.length / 3 → (afterVerify bytes s).widx = bytes.length / 3 - 1 ∧
        (afterVerify bytes s).crcreg = crc8Word (wordAt bytes (bytes.length / 3 - 1))) ∧
      (bytes.length / 3 = 0 → (afterVerify bytes s).widx = s.widx ∧ (afterVerify bytes s).crcreg = s.crcreg))

/-- 41_word_codec.md R45, R47: ENC_U16, with its width check: the wire word of the value. What CRCREG is left with is the
model's reading (log 13). -/
def Obligations.EncU16Operation : Prop :=
  (∀ w : Word, wire w = wireOf w) ∧
  (∀ (a : DWord) (s : State), exec (.encU16 a) s = .next
    (if 65536 ≤ a.toNat then raised 0x01#8 (.cause .width) s
     else returned (.bytes (wireOf (BitVec.ofNat 16 a.toNat))) { s with crcreg := crc8Word (BitVec.ofNat 16 a.toNat) })) ∧
  wireOf 0#16 = [0x00, 0x00, 0x81] ∧ wireOf 0xFFFF#16 = [0xFF, 0xFF, 0xAC] ∧ wireOf 1000#16 = [0x03, 0xE8, 0xD4]

/-- 41_word_codec.md R48, R49: ENC_U32 and ENC_F32: two wire words, high word first, of every one of the 2^32 patterns. What
CRCREG is left with is the model's reading (log 13). -/
def Obligations.EncU32AndF32Operations : Prop :=
  (∀ (v : DWord) (s : State),
    exec (.encU32 v) s = .next (returned (.bytes (wireOf (v.extractLsb' 16 16) ++ wireOf (v.extractLsb' 0 16)))
      { s with crcreg := crc8Word (v.extractLsb' 0 16) }) ∧
    exec (.encF32 v) s = .next (returned (.bytes (wireOf (v.extractLsb' 16 16) ++ wireOf (v.extractLsb' 0 16)))
      { s with crcreg := crc8Word (v.extractLsb' 0 16) })) ∧
  wire32 0x0000FFFF#32 = [0x00, 0x00, 0x81, 0xFF, 0xFF, 0xAC] ∧ wire32 0#32 = [0x00, 0x00, 0x81, 0x00, 0x00, 0x81] ∧
  wire32 0x12345678#32 = [0x12, 0x34, 0x37, 0x56, 0x78, 0x7D] ∧
  wire32 0x80000000#32 = [0x80, 0x00, 0xA2, 0x00, 0x00, 0x81] ∧
  wire32 0x7FC00000#32 = [0x7F, 0xC0, 0x64, 0x00, 0x00, 0x81] ∧
  wire32 0x43CE4000#32 = [0x43, 0xCE, 0x7D, 0x40, 0x00, 0x08]

/-- 41_word_codec.md R50: DEC_WORDS. That RXBUF is loaded even for a word count above 6 is the model's choice (log 12), and
what CRCREG and WIDX are left with its reading (log 13). -/
def Obligations.DecWordsOperation : Prop :=
  (∀ (n : Byte) (bytes : List Byte) (s : State), exec (.decWords n bytes) s = .next
    (if 6 < n.toNat then raised 0x01#8 (.cause .width) { s with rxbuf := bytes, rxlen := bytes.length }
     else match decWords bytes n.toNat with
       | .error e => raisedAs e (checked bytes s)
       | .ok ws => returned (.words ws) (checked bytes s))) ∧
  decWords [] 0 = .ok [] ∧ decWords [0x00, 0x00, 0x81] 0 = .error (.decode 0 3) ∧
  decWords [0x00, 0x00, 0x81, 0x00, 0x00] 2 = .error (.decode 2 5) ∧
  decWords [0x00, 0x00, 0x80, 0x00, 0x00, 0x81] 2 = .error (.checksum 0) ∧
  decWords [0xBE, 0xEF, 0x92, 0x00, 0x01, 0xB0] 2 = .ok [0xBEEF#16, 0x0001#16]

/-- 41_word_codec.md R51: DEC_U16. RXBUF, CRCREG and WIDX are left as log 12 and log 13 say, the model's reading. -/
def Obligations.DecU16Operation : Prop :=
  (∀ (bytes : List Byte) (s : State), exec (.decU16 bytes) s = .next
    (match decWords bytes 1 with
     | .error e => raisedAs e (checked bytes s)
     | .ok ws => returned (.u16 (word ws 0)) (checked bytes s))) ∧
  (∀ h l c : Byte, decWords [h, l, c] 1 =
    if crc8Word (h ++ l : BitVec (8 + 8)) = c then .ok [(h ++ l : BitVec (8 + 8))] else .error (.checksum 0)) ∧
  decWords [] 1 = .error (.decode 1 0) ∧ decWords [0xFF, 0x00, 0x00] 1 = .ok [0xFF00#16] ∧
  decWords [0x03, 0xE8, 0xD4] 1 = .ok [1000#16]

/-- 41_word_codec.md R52, R53: DEC_U32 and DEC_F32, high word first, the pattern unchanged. RXBUF, CRCREG and WIDX are left as
log 12 and log 13 say, the model's reading. -/
def Obligations.DecU32AndF32Operations : Prop :=
  (∀ (bytes : List Byte) (s : State),
    exec (.decU32 bytes) s = .next (match decWords bytes 2 with
      | .error e => raisedAs e (checked bytes s)
      | .ok ws => returned (.u32 (pair ws 0)) (checked bytes s)) ∧
    exec (.decF32 bytes) s = .next (match decWords bytes 2 with
      | .error e => raisedAs e (checked bytes s)
      | .ok ws => returned (.b32 (pair ws 0)) (checked bytes s))) ∧
  decWords [0x03, 0xE8, 0xD4] 2 = .error (.decode 2 3) ∧
  (decWords [0x12, 0x34, 0x37, 0x56, 0x78, 0x7D] 2).map (fun ws => pair ws 0) = .ok 0x12345678#32 ∧
  (decWords [0x7F, 0xC0, 0x64, 0x00, 0x00, 0x81] 2).map (fun ws => pair ws 0) = .ok 0x7FC00000#32 ∧
  (decWords [0x80, 0x00, 0xA2, 0x00, 0x00, 0x81] 2).map (fun ws => pair ws 0) = .ok 0x80000000#32 ∧
  (decWords [0x41, 0xBB, 0xA9, 0x33, 0x33, 0x88] 2).map (fun ws => pair ws 0) = .ok 0x41BB3333#32

/-- 41_word_codec.md R54, first and second bullet: what an encode operation returns, the matching decode operation turns back
into the value, for every value and from any two states; and if a decode operation returns a value, the matching encode
operation of that value returns exactly the bytes it came from. -/
def Obligations.CodecRoundTrips : Prop :=
  (∀ s s' : State,
      (∀ v : Word, ∃ bytes t t', exec (.encU16 (v.setWidth 32)) s = .next t ∧ t.res = some (.bytes bytes) ∧
        t.resValid = true ∧ exec (.decU16 bytes) s' = .next t' ∧ t'.resValid = true ∧ t'.res = some (.u16 v)) ∧
      (∀ v : DWord, ∃ bytes t t', exec (.encU32 v) s = .next t ∧ t.res = some (.bytes bytes) ∧
        t.resValid = true ∧ exec (.decU32 bytes) s' = .next t' ∧ t'.resValid = true ∧ t'.res = some (.u32 v)) ∧
      (∀ v : DWord, ∃ bytes t t', exec (.encF32 v) s = .next t ∧ t.res = some (.bytes bytes) ∧
        t.resValid = true ∧ exec (.decF32 bytes) s' = .next t' ∧ t'.resValid = true ∧ t'.res = some (.b32 v))) ∧
  (∀ (s s' t : State) (bytes : List Byte),
      (∀ v : Word, exec (.decU16 bytes) s = .next t → t.resValid = true → t.res = some (.u16 v) →
        ∃ t', exec (.encU16 (v.setWidth 32)) s' = .next t' ∧ t'.res = some (.bytes bytes)) ∧
      (∀ v : DWord, exec (.decU32 bytes) s = .next t → t.resValid = true → t.res = some (.u32 v) →
        ∃ t', exec (.encU32 v) s' = .next t' ∧ t'.res = some (.bytes bytes)) ∧
      (∀ v : DWord, exec (.decF32 bytes) s = .next t → t.resValid = true → t.res = some (.b32 v) →
        ∃ t', exec (.encF32 v) s' = .next t' ∧ t'.res = some (.bytes bytes)))

/-- 41_word_codec.md R54, third bullet: with exactly one check byte of a frame of good words corrupted, every decode of it ends
in ChecksumError naming that word, and no result is written. -/
def Obligations.CorruptedCheckByteNamed : Prop :=
  ∀ (ws : List Word) (k : Nat) (b : Byte) (w : Word), ws[k]? = some w → b ≠ crc8Word w →
    (∀ n, decWords ((ws.flatMap wireOf).set (3 * k + 2) b) n = .error (.checksum k)) ∧
    (∀ (c : Command) (s : State), ∃ t,
      exec (.deframe c.selector ((ws.flatMap wireOf).set (3 * k + 2) b)) s = .next t ∧
        t.resValid = false ∧ t.res = s.res ∧ t.err = ⟨0x02#8, .wordIndex k⟩)

/-- 41_word_codec.md R55: every encode operation is total (ENC_U16 on u16 operands); every decode operation returns a value or
raises exactly one of ChecksumError and DecodeError, or ValidationError(WIDTH) for DEC_WORDS with n above 6, and on an error
writes no result. -/
def Obligations.CodecOutcomes : Prop :=
  (∀ (v : DWord) (s : State), ∃ t, exec (.encU32 v) s = .next t ∧ t.resValid = true) ∧
  (∀ (v : DWord) (s : State), ∃ t, exec (.encF32 v) s = .next t ∧ t.resValid = true) ∧
  (∀ (v : Word) (s : State), ∃ t, exec (.encU16 (v.setWidth 32)) s = .next t ∧ t.resValid = true) ∧
  (∀ (i : Instr) (s : State),
    (∃ bytes, i = .decU16 bytes ∨ i = .decU32 bytes ∨ i = .decF32 bytes ∨ ∃ n, i = .decWords n bytes) →
    ∃ t, exec i s = .next t ∧
      ((t.resValid = true ∧ t.err = ⟨0x00#8, .none⟩) ∨
       (t.resValid = false ∧ t.res = s.res ∧
        ((∃ k, t.err = ⟨0x02#8, .wordIndex k⟩) ∨ (∃ n len, t.err = ⟨0x04#8, .wordCount n len⟩) ∨
         (t.err = ⟨0x01#8, .cause .width⟩ ∧ ∃ n bytes, i = .decWords n bytes ∧ 6 < n.toNat)))))

/-! ### The framer -/

/-- 42_command_catalog.md R62 to R67: `validate(c, a)` for every command and operand, with the width check before the domain
check; with the boundary values of R62 and R63. -/
def Obligations.ValidateRule : Prop :=
  (∀ (cfg : Config) (c : Command) (a : DWord), validate cfg c a =
    (match argsOf cfg c a with | .ok args => .ok args | .error cause => .error (.validation cause))) ∧
  (∀ cfg : Config,
    validate cfg .setPressure 699#32 = .error (.validation .pressureRange) ∧
    validate cfg .setPressure 700#32 = .ok [700#16] ∧ validate cfg .setPressure 1400#32 = .ok [1400#16] ∧
    validate cfg .setPressure 1401#32 = .error (.validation .pressureRange) ∧
    validate cfg .setPressure 0#32 = .ok [0#16] ∧
    validate cfg .setPressure 1500#32 = .error (.validation .pressureRange) ∧
    validate cfg .setInterval 1#32 = .error (.validation .intervalRange) ∧
    validate cfg .setInterval 2#32 = .ok [2#16] ∧ validate cfg .startCont 1800#32 = .ok [1800#16] ∧
    validate cfg .startCont 1801#32 = .error (.validation .intervalRange))

/-- 42_command_catalog.md R61: a request that fails validation has no effect but its error: from acceptance two steps lead to
DONE with no checksum, no write to TXBUF and no port event. -/
def Obligations.ValidationBeforeBus : Prop :=
  (∀ (c : Command) (a : DWord) (s : State) (cause : Cause), s.phase = .validate → argsOf s.cfg c a = .error cause →
    exec (c.toInstr a) s = .next (raised 0x01#8 (.cause cause) s)) ∧
  (∀ (c : Command) (a : DWord) (s : State) (rest : List Request) (cause : Cause), Presents s (c.toInstr a) rest →
    (∀ i ∈ s.inputs, i.reset = false) → argsOf s.cfg c a = .error cause →
    ∃ t, Runs 2 s t ∧ t.phase = .done ∧ t.err = ⟨0x01#8, .cause cause⟩ ∧ t.resValid = false ∧ t.crcreg = s.crcreg ∧
      t.txbuf = s.txbuf ∧ t.txlen = s.txlen ∧ t.rxbuf = s.rxbuf ∧ t.trace = s.trace)

/-- 42_command_catalog.md R68, R69: the typed result of each command's words, and of a response frame. -/
def Obligations.DecodeResultRule : Prop :=
  (∀ w : Word, decodeResult .getFw [w] = .fw (w.extractLsb' 8 8) (w.extractLsb' 0 8) ∧
    decodeResult .getReady [w] = .u16 w ∧ decodeResult .getToff [w] = .u16 w ∧ decodeResult .getAlt [w] = .u16 w) ∧
  (∀ a b c d e f : Word, decodeResult .readMeas [a, b, c, d, e, f] =
    .meas (a ++ b : BitVec (16 + 16)) (c ++ d : BitVec (16 + 16)) (e ++ f : BitVec (16 + 16))) ∧
  (∀ c, c ∈ [Command.softReset, .startCont, .stopCont, .setInterval, .setToff, .setAlt, .setPressure, .setAsc, .setFrc] →
    decodeResult c [] = .unit ∧ deframe c [] = .ok .unit) ∧
  (∀ (c : Command) (bytes : List Byte), deframe c bytes =
    match decWords bytes (respWords c) with
    | .error e => .error e
    | .ok ws => .ok (decodeResult c ws))

/-- 30_encoding.md R35 (and 42_command_catalog.md R70): the bytes of a request frame with and without an argument word, for
either framing of the command word, their number, and that no command has more than one argument word. -/
def Obligations.RequestFrames : Prop :=
  ∀ (cfg : Config) (c : Command) (v : Word),
    frame cfg c [] = frameOf cfg (cfg.cmdAddr.get c) none ∧ frame cfg c [v] = frameOf cfg (cfg.cmdAddr.get c) (some v) ∧
    (cfg.cmdWordCrc = true → (frame cfg c []).length = 3 ∧ (frame cfg c [v]).length = 6) ∧
    (cfg.cmdWordCrc = false → (frame cfg c []).length = 2 ∧ (frame cfg c [v]).length = 5) ∧
    (∀ a args, validate cfg c a = .ok args → args.length ≤ 1)

/-- 42_command_catalog.md R71: SERIALIZE, for every selector and operand; the frame is returned, TXBUF is not written (log 14),
and the engine's last word is the argument, or the command word if there is none and it carries a check byte (log 13). -/
def Obligations.SerializeOperation : Prop :=
  (∀ (sel : Byte) (a : DWord) (s : State), exec (.serialize sel a) s = .next
    (match Command.ofSelector sel with
     | none => raised 0x05#8 (.selector sel) s
     | some c =>
       match argsOf s.cfg c a with
       | .error cause => raised 0x01#8 (.cause cause) s
       | .ok args =>
         returned (.bytes (frameOf s.cfg (s.cfg.cmdAddr.get c) args.head?))
           { s with crcreg := match args.head? with
               | some v => crc8Word v
               | none => if s.cfg.cmdWordCrc then crc8Word (s.cfg.cmdAddr.get c) else s.crcreg })) ∧
  (∀ sel : Byte, Command.ofSelector sel = none ↔ (sel < 0x10#8 ∨ 0x1E#8 < sel ∨ sel = 0x16#8)) ∧
  (∀ c : Command, Command.ofSelector c.selector = some c) ∧
  (∀ cfg, Reference cfg → frameOf cfg (cfg.cmdAddr.get .setAlt) (some 1000#16) = [0x51, 0x02, 0xF0, 0x03, 0xE8, 0xD4] ∧
    frameOf cfg (cfg.cmdAddr.get .setPressure) (some 0#16) = [0x00, 0x10, 0xC2, 0x00, 0x00, 0x81])

/-- 42_command_catalog.md R72: DEFRAME, for every selector and byte list. That RXBUF is loaded even for a bad selector is the
model's choice (log 12), and what CRCREG and WIDX are left with its reading (log 13). -/
def Obligations.DeframeOperation : Prop :=
  (∀ (sel : Byte) (bytes : List Byte) (s : State), exec (.deframe sel bytes) s = .next
    (match Command.ofSelector sel with
     | none => raised 0x05#8 (.selector sel) { s with rxbuf := bytes, rxlen := bytes.length }
     | some c => ended (deframe c bytes) (checked bytes s))) ∧
  deframe .setAlt [] = .ok .unit ∧ deframe .setAlt [0x00, 0x00, 0x81] = .error (.decode 0 3) ∧
  deframe .getFw [0x03, 0x42, 0xF2] = .error (.checksum 0) ∧ deframe .getFw [0x03, 0x42, 0xF3] = .ok (.fw 3#8 66#8)

/-- 42_command_catalog.md R71, 43_exchange_sequencer.md R77, R78 (decision D33): the bytes SERIALIZE returns for a command and
its operand are those its exchange puts in TXBUF in ENCODE and sends in TRANSMIT. -/
def Obligations.SerializeMatchesTransmit : Prop :=
  ∀ (c : Command) (a : DWord) (s t u : State) (bytes : List Byte), exec (.serialize c.selector a) s = .next t →
    t.resValid = true → t.res = some (.bytes bytes) → u.cfg = s.cfg → u.phase = .validate →
    ∃ v w x, exec (c.toInstr a) u = .next v ∧ exec (c.toInstr a) v = .next w ∧
      txRead w.txbuf 0 w.txlen = .ok bytes ∧
      exec (c.toInstr a) w = .next x ∧ x.trace = u.trace ++ [.write u.cfg.devAddr bytes]

/-! ### The pure operations as a whole -/

/-- 10_state.md R10, 40_checksum.md R44, 41_word_codec.md R55: the frame of the eleven pure operations and SET_READY. Each ends in
DONE in one step, in every state; the latch, REQ_ARGS, every byte of TXBUF, TXLEN, the configuration, the ports and the trace
stay; RXBUF, RXLEN and WIDX change only in the operations that carry data; a result is written only by `return`. -/
def Obligations.PureOperationsFrame : Prop :=
  ∀ (i : Instr) (s : State), i.isPure = true ∨ i = .setReady →
    ∃ t, exec i s = .next t ∧ t.phase = .done ∧ t.outstanding = false ∧ t.req = s.req ∧ t.reqArgs = s.reqArgs ∧
      t.txlen = s.txlen ∧ (∀ k, Memory.read t.txbuf k = Memory.read s.txbuf k) ∧ t.cfg = s.cfg ∧
      t.requests = s.requests ∧ t.inputs = s.inputs ∧ t.trace = s.trace ∧
      (t.resValid = true → t.err = ⟨0x00#8, .none⟩ ∧ t.res.isSome = true) ∧ (t.resValid = false → t.res = s.res) ∧
      ((∀ bytes n, i ≠ .decU16 bytes ∧ i ≠ .decU32 bytes ∧ i ≠ .decF32 bytes ∧ i ≠ .decWords n bytes ∧
          i ≠ .deframe n bytes) → t.rxbuf = s.rxbuf ∧ t.rxlen = s.rxlen ∧ t.widx = s.widx)

/-- 40_checksum.md R44, 41_word_codec.md, 10_state.md R12, R17: the outcome of a pure operation depends on its operands and the
configuration alone: no value that another operation left is read. -/
def Obligations.PureOutcomeIgnoresState : Prop :=
  ∀ (i : Instr) (s s' t t' : State), i.isPure = true → s.cfg = s'.cfg → exec i s = .next t → exec i s' = .next t' →
    t.resValid = t'.resValid ∧ t.err = t'.err ∧ (t.resValid = true → t.res = t'.res)

/-! ### The sequencer -/

/-- 43_exchange_sequencer.md R75: the rows of the transition table, for every command and operand, as next states of exec.
The registers a row does not name stay, but for `CRCREG` in ENCODE and DECODE and `WIDX` in DECODE (R42, R46, log 13). -/
def Obligations.SequencerRows : Prop :=
  ∀ (c : Command) (a : DWord) (s : State),
    (∀ e, s.phase = .validate → validate s.cfg c a = .error e → exec (c.toInstr a) s = .next (raisedAs e s)) ∧
    (∀ args, s.phase = .validate → validate s.cfg c a = .ok args →
      exec (c.toInstr a) s = .next { s with reqArgs := args, phase := .encode, outstanding := false }) ∧
    (s.phase = .encode → s.reqArgs.length ≤ 1 → ∃ m crc,
      exec (c.toInstr a) s = .next { s with
        txbuf := m, txlen := (frame s.cfg c s.reqArgs).length, crcreg := crc, phase := .transmit, outstanding := false } ∧
      txRead m 0 (frame s.cfg c s.reqArgs).length = .ok (frame s.cfg c s.reqArgs)) ∧
    (∀ bytes, s.phase = .transmit → s.outstanding = false → txRead s.txbuf 0 s.txlen = .ok bytes →
      exec (c.toInstr a) s = .next { s with trace := s.trace ++ [.write s.cfg.devAddr bytes], outstanding := true }) ∧
    (∀ k, s.phase = .transmit → s.outstanding = true → answer s = some (.fail k) →
      exec (c.toInstr a) s = .next (raised 0x03#8 (.kind k) s)) ∧
    (s.phase = .transmit → s.outstanding = true → answer s = some .writeOk →
      exec (c.toInstr a) s = .next { s with phase := .await, outstanding := false }) ∧
    (s.phase = .await → s.outstanding = false →
      exec (c.toInstr a) s = .next { s with trace := s.trace ++ [.wait (s.cfg.delayMs.get c)], outstanding := true }) ∧
    (s.phase = .await → s.outstanding = true → answer s = some .done → respWords c = 0 →
      exec (c.toInstr a) s = .next (returned .unit s)) ∧
    (s.phase = .await → s.outstanding = true → answer s = some .done → 0 < respWords c →
      exec (c.toInstr a) s = .next { s with phase := .receive, outstanding := false }) ∧
    (s.phase = .receive → s.outstanding = false → exec (c.toInstr a) s =
      .next { s with trace := s.trace ++ [.read s.cfg.devAddr (3 * respWords c)], outstanding := true }) ∧
    (∀ k, s.phase = .receive → s.outstanding = true → answer s = some (.fail k) →
      exec (c.toInstr a) s = .next (raised 0x03#8 (.kind k) s)) ∧
    (∀ bytes, s.phase = .receive → s.outstanding = true → answer s = some (.readOk bytes) →
      exec (c.toInstr a) s = .next { s with
        rxbuf := bytes, rxlen := bytes.length, phase := .decode, outstanding := false }) ∧
    (s.phase = .decode → exec (c.toInstr a) s = .next (ended (deframe c s.rxbuf)
      { s with
        crcreg := (verifyFrom 0 s.crcreg s.widx s.rxbuf).crcreg
        widx := (verifyFrom 0 s.crcreg s.widx s.rxbuf).widx }))

/-- 43_exchange_sequencer.md R75 ("No other transition exists"), R79: the phases an exchange can go to from each phase, and
that AWAIT is left only on `Done`, TRANSMIT and RECEIVE only on an answer. -/
def Obligations.PhaseTransitions : Prop :=
  ∀ (c : Command) (a : DWord) (s t : State), exec (c.toInstr a) s = .next t →
    (s.phase, t.phase) ∈ [(Phase.idle, Phase.validate), (.done, .validate), (.validate, .encode), (.validate, .done),
      (.encode, .transmit), (.transmit, .transmit), (.transmit, .await), (.transmit, .done), (.await, .await),
      (.await, .receive), (.await, .done), (.receive, .receive), (.receive, .decode), (.receive, .done), (.decode, .done)] ∧
    (s.phase = .await → t.phase ≠ .await → s.outstanding = true ∧ answer s = some .done) ∧
    (s.phase = .transmit → t.phase ≠ .transmit →
      s.outstanding = true ∧ (answer s = some .writeOk ∨ ∃ k, answer s = some (.fail k))) ∧
    (s.phase = .receive → t.phase ≠ .receive →
      s.outstanding = true ∧ ((∃ bytes, answer s = some (.readOk bytes)) ∨ ∃ k, answer s = some (.fail k))) ∧
    (t.phase = .receive ∨ t.phase = .decode → s.phase = .await ∨ s.phase = .receive) ∧
    (s.phase = .await → t.phase = .receive → 0 < respWords c)

/-- 10_state.md R11, R13, R14, 20_memory.md R21, R22: the frame of the fourteen catalog commands at any phase. REQ, the
configuration and the ports stay; REQ_ARGS changes only in VALIDATE; TXBUF only in ENCODE, and there only the bytes of the
frame, stored from index 0; RXBUF only in RECEIVE; CRCREG only in ENCODE and DECODE; WIDX only in DECODE; the outcome only on
entry to DONE; at most one port event is issued, to the one device address. -/
def Obligations.CatalogFrame : Prop :=
  ∀ (c : Command) (a : DWord) (s t : State), exec (c.toInstr a) s = .next t →
    t.req = s.req ∧ t.cfg = s.cfg ∧ t.requests = s.requests ∧ t.inputs = s.inputs ∧
    (s.phase ≠ .validate → t.reqArgs = s.reqArgs) ∧
    (s.phase ≠ .encode → t.txlen = s.txlen ∧ ∀ k, Memory.read t.txbuf k = Memory.read s.txbuf k) ∧
    (s.phase = .encode → t.txlen = (frame s.cfg c s.reqArgs).length ∧
      ∀ k, Memory.read t.txbuf k =
        if k < (frame s.cfg c s.reqArgs).length then (frame s.cfg c s.reqArgs)[k]? else Memory.read s.txbuf k) ∧
    (s.phase ≠ .receive → t.rxbuf = s.rxbuf ∧ t.rxlen = s.rxlen) ∧
    (s.phase ≠ .encode → s.phase ≠ .decode → t.crcreg = s.crcreg) ∧
    (s.phase ≠ .decode → t.widx = s.widx) ∧
    (t.phase ≠ .done → t.res = s.res ∧ t.resValid = s.resValid ∧ t.err = s.err) ∧
    (t.trace = s.trace ∨
      (s.phase = .transmit ∧ ∃ bytes, t.trace = s.trace ++ [.write s.cfg.devAddr bytes]) ∨
      (s.phase = .await ∧ t.trace = s.trace ++ [.wait (s.cfg.delayMs.get c)]) ∨
      (s.phase = .receive ∧ t.trace = s.trace ++ [.read s.cfg.devAddr (3 * respWords c)]))

/-- 43_exchange_sequencer.md R83, with R25: whatever the transport and the delay provider do and whenever they do it, once the
exchange of an accepted request is DONE without a reset, its port events and its outcome are those `exchange(c, a)` gives for
some answers; and these are one of four shapes, with one write and at most one read if validation passes. -/
def Obligations.ExchangeRefinesFunction : Prop :=
  (∀ (c : Command) (a : DWord) (s t : State) (rest : List Request) (n : Nat), Presents s (c.toInstr a) rest →
    (∀ i ∈ s.inputs, i.reset = false) → Runs n s t → t.requests = rest → t.phase = .done →
    ∃ w r, t.trace = s.trace ++ (exchange s.cfg c a w r).1 ∧ holdsOutcome (exchange s.cfg c a w r).2 t) ∧
  (∀ (cfg : Config) (c : Command) (a : DWord) (w : Except TKind Unit) (r : Except TKind (List Byte)),
    let tr := (exchange cfg c a w r).1
    (tr = [] ∧ ∃ e, validate cfg c a = .error e) ∨
    (∃ F, tr = [.write cfg.devAddr F] ∧ ∃ k, w = .error k) ∨
    (∃ F, tr = [.write cfg.devAddr F, .wait (cfg.delayMs.get c)] ∧ respWords c = 0) ∨
    (∃ F, tr = [.write cfg.devAddr F, .wait (cfg.delayMs.get c), .read cfg.devAddr (3 * respWords c)] ∧ 0 < respWords c))

/-- 43_exchange_sequencer.md R84, R120 (93_implementation_defined.md I3): while no answer and no reset comes, a block with a
transaction outstanding stays exactly as it is, for any number of steps; it has no time-out (log 10). -/
def Obligations.UnansweredBlockWaits : Prop :=
  ∀ (c : Command) (s : State) (n : Nat), s.req.decode = .ok (c.toInstr s.req.a) →
    s.phase = .transmit ∨ s.phase = .await ∨ s.phase = .receive → s.outstanding = true →
    (∀ i ∈ s.inputs, i.reset = false ∧ i.answer = none) → Runs n s { s with inputs := s.inputs.drop n }

/-- 43_exchange_sequencer.md R82, 60_exceptions.md R110: the outcome is held while no request is accepted and no reset comes,
for any number of steps and whatever answers arrive; the next request is then accepted, and clears it (10_state.md R15;
that RES is unset then is log 15). -/
def Obligations.OutcomeHeld : Prop :=
  ∀ (s : State), s.phase = .done → s.outstanding = false →
    (∀ n, s.requests = [] → (∀ i ∈ s.inputs, i.reset = false) → Runs n s { s with inputs := s.inputs.drop n }) ∧
    (∀ (c : Command) (a : DWord) (rest : List Request), Presents s (c.toInstr a) rest → resetAsserted s = false →
      ∃ t, step s = .next t ∧ t.phase = .validate ∧ t.res = none ∧ t.resValid = false ∧ t.err = ⟨0x00#8, .none⟩ ∧
        t.requests = rest)

/-! ### The catalog commands

Each statement is about every run whose transactions are answered, in the form the model gives to answers (log 8, 9). -/

/-- 44_commands.md R87: GET_FW, its exchange for every operand and every answer, and its completing step. -/
def Obligations.GetFwExchange : Prop :=
  RunsAs .getFw (fun cfg => getForm cfg.cmdAddr.getFw cfg.delayMs.getFw 1
    (fun ws => .fw ((word ws 0).extractLsb' 8 8) ((word ws 0).extractLsb' 0 8)) cfg) ∧
  ReturnsTyped .getFw 1 (fun ws => .fw ((word ws 0).extractLsb' 8 8) ((word ws 0).extractLsb' 0 8))

/-- 44_commands.md R92, R96, R98: GET_READY, GET_TOFF and GET_ALT: every u16 is returned as it is; the get form of a setting
has the command word of its set form. -/
def Obligations.GetWordExchanges : Prop :=
  RunsAs .getReady (fun cfg => getForm cfg.cmdAddr.getReady cfg.delayMs.getReady 1 (fun ws => .u16 (word ws 0)) cfg) ∧
  RunsAs .getToff (fun cfg => getForm cfg.cmdAddr.toff cfg.delayMs.getToff 1 (fun ws => .u16 (word ws 0)) cfg) ∧
  RunsAs .getAlt (fun cfg => getForm cfg.cmdAddr.alt cfg.delayMs.getAlt 1 (fun ws => .u16 (word ws 0)) cfg) ∧
  ReturnsTyped .getReady 1 (fun ws => .u16 (word ws 0)) ∧ ReturnsTyped .getToff 1 (fun ws => .u16 (word ws 0)) ∧
  ReturnsTyped .getAlt 1 (fun ws => .u16 (word ws 0))

/-- 44_commands.md R94: READ_MEAS: six words, three binary32 patterns unchanged, CO2 then temperature then humidity. -/
def Obligations.ReadMeasExchange : Prop :=
  RunsAs .readMeas (fun cfg => getForm cfg.cmdAddr.readMeas cfg.delayMs.readMeas 6
    (fun ws => .meas (pair ws 0) (pair ws 2) (pair ws 4)) cfg) ∧
  ReturnsTyped .readMeas 6 (fun ws => .meas (pair ws 0) (pair ws 2) (pair ws 4))

/-- 44_commands.md R88, R90: SOFT_RESET and STOP_CONT: no argument, no response, whatever was issued before; SOFT_RESET does not
reset the block. -/
def Obligations.PlainCommandExchanges : Prop :=
  RunsAs .softReset (fun cfg a w _ => setForm cfg.cmdAddr.softReset cfg.delayMs.softReset (noArg a) cfg w) ∧
  RunsAs .stopCont (fun cfg a w _ => setForm cfg.cmdAddr.stopCont cfg.delayMs.stopCont (noArg a) cfg w) ∧
  ReturnsUnit .softReset ∧ ReturnsUnit .stopCont ∧
  (∀ a s t, exec (.softReset a) s = .next t → t.phase ≠ .idle ∧ t.req = s.req ∧ t.cfg = s.cfg)

/-- 44_commands.md R89, R91: START_CONT and SET_INTERVAL: an interval of 2 to 1800 seconds. -/
def Obligations.IntervalExchanges : Prop :=
  RunsAs .startCont (fun cfg a w _ => setForm cfg.cmdAddr.startCont cfg.delayMs.startCont
    (u16Arg (fun v => 2 ≤ v ∧ v ≤ 1800) .intervalRange a) cfg w) ∧
  RunsAs .setInterval (fun cfg a w _ => setForm cfg.cmdAddr.setInterval cfg.delayMs.setInterval
    (u16Arg (fun v => 2 ≤ v ∧ v ≤ 1800) .intervalRange a) cfg w) ∧
  ReturnsUnit .startCont ∧ ReturnsUnit .setInterval

/-- 44_commands.md R95, R97: SET_TOFF and SET_ALT: any u16, sent unchanged. -/
def Obligations.UnrestrictedSetExchanges : Prop :=
  RunsAs .setToff (fun cfg a w _ => setForm cfg.cmdAddr.toff cfg.delayMs.setToff (u16Arg (fun _ => True) .width a) cfg w) ∧
  RunsAs .setAlt (fun cfg a w _ => setForm cfg.cmdAddr.alt cfg.delayMs.setAlt (u16Arg (fun _ => True) .width a) cfg w) ∧
  ReturnsUnit .setToff ∧ ReturnsUnit .setAlt

/-- 44_commands.md R99: SET_PRESSURE: 0, or 700 to 1400 millibar. -/
def Obligations.PressureExchange : Prop :=
  RunsAs .setPressure (fun cfg a w _ => setForm cfg.cmdAddr.setPressure cfg.delayMs.setPressure
    (u16Arg (fun v => v = 0 ∨ (700 ≤ v ∧ v ≤ 1400)) .pressureRange a) cfg w) ∧
  ReturnsUnit .setPressure

/-- 44_commands.md R100: SET_ASC: 1 enables and 0 disables, anything else fails the width check. -/
def Obligations.SelfCalibrationExchange : Prop :=
  RunsAs .setAsc (fun cfg a w _ => setForm cfg.cmdAddr.setAsc cfg.delayMs.setAsc
    (if a = 1 then .ok (some 0x0001#16) else if a = 0 then .ok (some 0x0000#16) else .error .width) cfg w) ∧
  ReturnsUnit .setAsc

/-- 44_commands.md R101: SET_FRC: a value within the configured bounds, whatever they are. -/
def Obligations.RecalibrationExchange : Prop :=
  RunsAs .setFrc (fun cfg a w _ => setForm cfg.cmdAddr.setFrc cfg.delayMs.setFrc
    (u16Arg (fun v => cfg.frcMin.toNat ≤ v ∧ v ≤ cfg.frcMax.toNat) .frcRange a) cfg w) ∧
  ReturnsUnit .setFrc

/-- 44_commands.md R87 to R101: the byte examples of the rules, which the spec marks as its own derivations. The frames have the
reference command words as a premise (log 25). For every configuration, the get form of a setting differs from its set form in
the argument word alone (log 27). -/
def Obligations.CatalogExamples : Prop :=
  (∀ cfg, Reference cfg →
    frameOf cfg cfg.cmdAddr.getFw none = [0xD1, 0x00, 0xB1] ∧ frameOf cfg cfg.cmdAddr.softReset none = [0xD3, 0x04, 0xAC] ∧
    frameOf cfg cfg.cmdAddr.startCont (some 2#16) = [0x00, 0x10, 0xC2, 0x00, 0x02, 0xE3] ∧
    frameOf cfg cfg.cmdAddr.stopCont none = [0x01, 0x04, 0xB1] ∧
    frameOf cfg cfg.cmdAddr.setInterval (some 1800#16) = [0x46, 0x00, 0x52, 0x07, 0x08, 0x96] ∧
    frameOf cfg cfg.cmdAddr.getReady none = [0x02, 0x02, 0x3A] ∧ frameOf cfg cfg.cmdAddr.readMeas none = [0x03, 0x00, 0xAC] ∧
    frameOf cfg cfg.cmdAddr.toff (some 500#16) = [0x54, 0x03, 0xB6, 0x01, 0xF4, 0x33] ∧
    frameOf cfg cfg.cmdAddr.toff none = [0x54, 0x03, 0xB6] ∧
    frameOf cfg cfg.cmdAddr.alt (some 1000#16) = [0x51, 0x02, 0xF0, 0x03, 0xE8, 0xD4] ∧
    frameOf cfg cfg.cmdAddr.alt none = [0x51, 0x02, 0xF0] ∧
    frameOf cfg cfg.cmdAddr.setPressure (some 1013#16) = [0x00, 0x10, 0xC2, 0x03, 0xF5, 0xDB] ∧
    frameOf cfg cfg.cmdAddr.setAsc (some 1#16) = [0x53, 0x06, 0xED, 0x00, 0x01, 0xB0] ∧
    frameOf cfg cfg.cmdAddr.setAsc (some 0#16) = [0x53, 0x06, 0xED, 0x00, 0x00, 0x81] ∧
    frameOf cfg cfg.cmdAddr.setFrc (some 400#16) = [0x52, 0x04, 0x7B, 0x01, 0x90, 0x4C]) ∧
  (∀ cfg v, frame cfg .setToff [v] = frame cfg .getToff [] ++ wireOf v ∧ frame cfg .setAlt [v] = frame cfg .getAlt [] ++ wireOf v) ∧
  deframe .getFw [0x03, 0x42, 0xF3] = .ok (.fw 3#8 66#8) ∧ deframe .getFw [0x00, 0x00, 0x81] = .ok (.fw 0#8 0#8) ∧
  deframe .getReady [0x00, 0x01, 0xB0] = .ok (.u16 1#16) ∧ deframe .getToff [0x01, 0xF4, 0x33] = .ok (.u16 500#16) ∧
  deframe .getAlt [0x03, 0xE8, 0xD4] = .ok (.u16 1000#16) ∧
  deframe .getAlt [0x03, 0xE8, 0xD4, 0x00, 0x00, 0x81] = .error (.decode 1 6) ∧
  deframe .readMeas
    [0x43, 0xCE, 0x7D, 0x40, 0x00, 0x08, 0x41, 0xBB, 0xA9, 0x33, 0x33, 0x88, 0x42, 0x34, 0xD0, 0x00, 0x00, 0x81] =
    .ok (.meas 0x43CE4000#32 0x41BB3333#32 0x42340000#32) ∧
  deframe .readMeas
    [0x43, 0xCE, 0x7D, 0x40, 0x00, 0x08, 0x41, 0xBB, 0xA9, 0x33, 0x33, 0x89, 0x42, 0x34, 0xD0, 0x00, 0x00, 0x81] =
    .error (.checksum 3)

/-! ### Errors -/

/-- 60_exceptions.md R108: the entry of an error, by any operation: `ERR`, `RES_VALID` and `PHASE` are written, nothing else is
saved or undone: the latch, the frame sent, the result and the trace stay; and no port event follows until a request is
accepted. -/
def Obligations.ErrorEntry : Prop :=
  ∀ (i : Instr) (s t : State), exec i s = .next t → s.err = ⟨0x00#8, .none⟩ → t.err ≠ ⟨0x00#8, .none⟩ →
    t.phase = .done ∧ t.resValid = false ∧ t.outstanding = false ∧ (∃ e, t.err = (raisedAs e s).err) ∧
    t.trace = s.trace ∧ t.req = s.req ∧ t.reqArgs = s.reqArgs ∧ t.txbuf = s.txbuf ∧ t.txlen = s.txlen ∧ t.res = s.res ∧
    t.cfg = s.cfg ∧
    (∀ u, t.requests = [] → resetAsserted t = false → step t = .next u →
      u.trace = t.trace ∧ u.err = t.err ∧ u.phase = .done)

/-- 60_exceptions.md R109: the order of the checks. Each item holds whatever a later check would find. That a Fail which answers
a Wait is no answer, so that the Wait cannot fail, is the model's reading of R75, R79 and R85 (log 9). The items about
`exchange` (43_exchange_sequencer.md R83) speak of a function that the step does not call: SequencerRows and
ExchangeRefinesFunction tie it to the step. -/
def Obligations.ErrorPriority : Prop :=
  (∀ (s : State) (r : Request) (rest : List Request), reqReady s = true → resetAsserted s = false →
    s.requests = r :: rest → reservedSelector r.fields.opsel ∨ r.fields.opsel = 0x16#8 →
    ∃ t, step s = .next t ∧ t.err = ⟨0x05#8, .selector r.fields.opsel⟩) ∧
  (∀ (sel : Byte) (a : DWord) (bytes : List Byte) (s : State), sel < 0x10#8 ∨ 0x1E#8 < sel ∨ sel = 0x16#8 →
    (∃ t, exec (.serialize sel a) s = .next t ∧ t.err = ⟨0x05#8, .selector sel⟩) ∧
    (∃ t, exec (.deframe sel bytes) s = .next t ∧ t.err = ⟨0x05#8, .selector sel⟩)) ∧
  (∀ (cfg : Config) (c : Command) (a : DWord), 65536 ≤ a.toNat → validate cfg c a = .error (.validation .width)) ∧
  (∀ (n : Byte) (bytes : List Byte) (s : State), 6 < n.toNat →
    ∃ t, exec (.decWords n bytes) s = .next t ∧ t.err = ⟨0x01#8, .cause .width⟩) ∧
  (∀ cfg c a w r e, validate cfg c a = .error e → exchange cfg c a w r = ([], .error e)) ∧
  (∀ cfg c a k r args, validate cfg c a = .ok args → (exchange cfg c a (.error k) r).2 = .error (.transport k)) ∧
  (∀ (c : Command) (a : DWord) (s : State) (k : TKind), s.phase = .await → answer s = some (.fail k) →
    exec (c.toInstr a) s = .next s) ∧
  (∀ cfg c a k args, validate cfg c a = .ok args → 0 < respWords c →
    (exchange cfg c a (.ok ()) (.error k)).2 = .error (.transport k)) ∧
  (∀ cfg c a bytes args k, validate cfg c a = .ok args → 0 < respWords c → k < bytes.length / 3 → badAt bytes k →
    (∀ j, j < k → ¬ badAt bytes j) → (exchange cfg c a (.ok ()) (.ok bytes)).2 = .error (.checksum k)) ∧
  (∀ cfg c a bytes args, validate cfg c a = .ok args → 0 < respWords c → (∀ k, k < bytes.length / 3 → ¬ badAt bytes k) →
    bytes.length ≠ 3 * respWords c →
    (exchange cfg c a (.ok ()) (.ok bytes)).2 = .error (.decode (respWords c) bytes.length))

/-! ### The machine as a whole -/

/-- The invariant holds right after reset (10_state.md R20); that the ports and the trace are empty then is the model's choice
(log 7, 8, 11). -/
def Obligations.InvariantAtReset : Prop := Invariant State.reset ∧ TraceOrdered State.reset

/-- 10_state.md R9 to R16, 43_exchange_sequencer.md R75: every step keeps the invariant: buffers and lengths agree, an outcome is
held exactly in DONE and RES is unset without a valid result (log 15), and a running exchange has
validated, built and issued what its phase says. -/
def Obligations.InvariantKept : Prop := ∀ s t : State, Invariant s → step s = .next t → Invariant t

/-- 60_exceptions.md R110: no error stops the block. From every state that meets the invariant a step leads to a next state:
no unset byte of TXBUF is read and no byte outside it (10_state.md R17, 20_memory.md R21), and nothing is refused. -/
def Obligations.NoStepStops : Prop := ∀ s : State, Invariant s → ∃ t, step s = .next t

/-- 20_memory.md R26: with the invariant, every step keeps the port events in order: a Wait directly follows a BusWrite, a
BusRead directly follows a Wait, within an exchange and across exchanges and resets (that a reset keeps the trace is log 11). -/
def Obligations.PortOrderKept : Prop := ∀ s t : State, Invariant s → TraceOrdered s → step s = .next t → TraceOrdered t

/-- 10_state.md R17, 43_exchange_sequencer.md R86: stateless between operations. Two machines that look alike from outside and
agree on the registers their running operation still needs go on looking alike, step by step, whatever earlier operations
left in `REQ`, `REQ_ARGS`, `CRCREG`, TXBUF, RXBUF, `WIDX` and `RES`. -/
def Obligations.StatelessBetweenOperations : Prop :=
  ∀ s t s' : State, Alike s t → step s = .next s' → ∃ t', step t = .next t' ∧ Alike s' t'

/-- 10_state.md R19, 70_reset_and_hazards.md R115: no step writes the configuration, and no step, reset included, takes back a port
event (log 11). -/
def Obligations.ConfigAndTraceKept : Prop :=
  ∀ s t : State, step s = .next t → t.cfg = s.cfg ∧ ∃ more, t.trace = s.trace ++ more ∧ more.length ≤ 1

/-- 60_exceptions.md R111: no event from the transport or the delay provider reaches the block except as the answer to a
transaction it issued: with none outstanding, whatever arrives makes no difference to the step (log 9). -/
def Obligations.StrayAnswersIgnored : Prop :=
  ∀ (s : State) (i : Input) (rest : List Input) (stray : Option (Nat × Answer)), s.outstanding = false →
    s.inputs = i :: rest → step { s with inputs := { i with answer := stray } :: rest } = step s
end

