-- ==== Sys2Proof/Laws/Codec.lean ====
section
/-! SUPPORT. The word codec: lengths, and how verifying and unpacking act on wire words (41_word_codec.md R45, R46). -/

namespace Sys2Proof.Machine

@[simp] theorem wire_length (w : Word) : (wire w).length = 3 := rfl

@[simp] theorem wire32_length (v : DWord) : (wire32 v).length = 6 := rfl

@[simp] theorem wires_nil : wires [] = [] := rfl

@[simp] theorem wires_cons (w : Word) (ws : List Word) :
    wires (w :: ws) = hiByte w :: loByte w :: crc8Word w :: wires ws := rfl

@[simp] theorem wires_length (ws : List Word) : (wires ws).length = 3 * ws.length := by
  induction ws with
  | nil => rfl
  | cons w ws ih => simp [ih]; omega

/-- The two bytes of a data word join to it again (20_memory.md R23). -/
@[simp] theorem joinBytes_hi_lo (w : Word) : joinBytes (hiByte w) (loByte w) = w := by
  have h : joinBytes (hiByte w) (loByte w) = w.extractLsb' 0 16 := by
    simp only [joinBytes, hiByte, loByte]
    rw [BitVec.extractLsb'_append_extractLsb'_eq_extractLsb' (by omega)]
  simpa using h

/-- The two words of a 32-bit value join to it again (R23). -/
@[simp] theorem joinWords_hi_lo (v : DWord) : joinWords (hiWord v) (loWord v) = v := by
  have h : joinWords (hiWord v) (loWord v) = v.extractLsb' 0 32 := by
    simp only [joinWords, hiWord, loWord]
    rw [BitVec.extractLsb'_append_extractLsb'_eq_extractLsb' (by omega)]
  simpa using h

@[simp] theorem hiByte_joinBytes (h l : Byte) : hiByte (joinBytes h l) = h := by
  simp only [hiByte, joinBytes]
  rw [BitVec.extractLsb'_append_eq_of_le (by omega)]
  simp

@[simp] theorem loByte_joinBytes (h l : Byte) : loByte (joinBytes h l) = l := by
  simp only [loByte, joinBytes]
  rw [BitVec.extractLsb'_append_eq_of_add_le (by omega)]
  simp

@[simp] theorem hiWord_joinWords (h l : Word) : hiWord (joinWords h l) = h := by
  simp only [hiWord, joinWords]
  rw [BitVec.extractLsb'_append_eq_of_le (by omega)]
  simp

@[simp] theorem loWord_joinWords (h l : Word) : loWord (joinWords h l) = l := by
  simp only [loWord, joinWords]
  rw [BitVec.extractLsb'_append_eq_of_add_le (by omega)]
  simp

/-- One complete wire word that verifies. -/
theorem verifyFrom_good {h l c : Byte} (hc : crc8Word (joinBytes h l) = c) (k : Nat) (crc : Byte) (widx : Nat)
    (rest : List Byte) : verifyFrom k crc widx (h :: l :: c :: rest) = verifyFrom (k + 1) c k rest := by
  simp [verifyFrom, hc]

/-- One complete wire word that fails. -/
theorem verifyFrom_bad {h l c : Byte} (hc : crc8Word (joinBytes h l) ≠ c) (k : Nat) (crc : Byte) (widx : Nat)
    (rest : List Byte) :
    verifyFrom k crc widx (h :: l :: c :: rest) = ⟨crc8Word (joinBytes h l), k, some k⟩ := by
  simp [verifyFrom, hc]

/-- Which wire word fails does not depend on what `CRCREG` and `WIDX` hold before (10_state.md R12, R17). -/
theorem verifyFrom_failed (k : Nat) (c₁ c₂ : Byte) (w₁ w₂ : Nat) (bytes : List Byte) :
    (verifyFrom k c₁ w₁ bytes).failed = (verifyFrom k c₂ w₂ bytes).failed := by
  match bytes with
  | [] => rfl
  | [_] => rfl
  | [_, _] => rfl
  | h :: l :: c :: rest =>
    by_cases hc : crc8Word (joinBytes h l) = c
    · rw [verifyFrom_good hc, verifyFrom_good hc]
    · rw [verifyFrom_bad hc, verifyFrom_bad hc]

/-- `dec_words` says which error, or the words, from the same check that `afterVerify` records. -/
theorem decWords_eq (bytes : List Byte) (n : Nat) (s : State) :
    decWords bytes n =
      match (verifyFrom 0 s.crcreg s.widx bytes).failed with
      | some k => .error (.checksum k)
      | none =>
        if bytes.length = Config.wireWordBytes * n then .ok (unpackWords bytes) else .error (.decode n bytes.length) := by
  rw [← verifyFrom_failed 0 Config.crcInit s.crcreg 0 s.widx bytes]
  unfold decWords
  cases (verifyFrom 0 Config.crcInit 0 bytes).failed <;> rfl

theorem unpackWords_length (bytes : List Byte) : (unpackWords bytes).length = bytes.length / 3 := by
  match bytes with
  | [] => rfl
  | [_] => simp [unpackWords]
  | [_, _] => simp [unpackWords]
  | h :: l :: c :: rest =>
    have := unpackWords_length rest
    simp only [unpackWords, List.length_cons, this]
    omega

/-- `dec_words(L, n)` gives exactly `n` words when it gives any (R46), so the default of `nthWord` is never met (log 26). -/
theorem decWords_length {bytes : List Byte} {n : Nat} {ws : List Word} (h : decWords bytes n = .ok ws) : ws.length = n := by
  unfold decWords at h
  split at h
  · cases h
  · split at h
    · rename_i hlen
      cases h
      have : Config.wireWordBytes = 3 := rfl
      rw [unpackWords_length, hlen, this]
      omega
    · cases h

/-- The only errors of `dec_words` are ChecksumError and DecodeError (R55). -/
theorem decWords_error {bytes : List Byte} {n : Nat} {e : Error} (h : decWords bytes n = .error e) :
    (∃ k, e = .checksum k) ∨ (e = .decode n bytes.length ∧ bytes.length ≠ Config.wireWordBytes * n) := by
  unfold decWords at h
  split at h
  · cases h; exact .inl ⟨_, rfl⟩
  · split at h
    · cases h
    · rename_i hlen
      cases h; exact .inr ⟨rfl, hlen⟩

/-- Whole wire words verify (R45, R46). -/
theorem verifyFrom_wires (ws : List Word) (k : Nat) (crc : Byte) (widx : Nat) :
    (verifyFrom k crc widx (wires ws)).failed = none := by
  induction ws generalizing k crc widx with
  | nil => rfl
  | cons w ws ih => rw [wires_cons, verifyFrom_good (by simp)]; exact ih _ _ _

@[simp] theorem unpackWords_wires (ws : List Word) : unpackWords (wires ws) = ws := by
  induction ws with
  | nil => rfl
  | cons w ws ih => simp [unpackWords, ih]

/-- Validation leaves 0 or 1 argument words, as the catalog says (42_command_catalog.md R60, R67). -/
theorem validate_length {cfg : Config} {c : Command} {a : DWord} {args : List Word} (h : validate cfg c a = .ok args) :
    args.length = argWords c := by
  unfold validate at h
  split at h
  · rename_i h0
    unfold validateNone at h
    split at h
    · cases h; simp [h0]
    · cases h
  · rename_i h0
    have h1 : argWords c = 1 := by cases c <;> first | rfl | exact absurd rfl h0
    split at h
    · unfold validateAsc at h
      split at h
      · cases h; simp [h1]
      · cases h
    · unfold validateU16 at h
      split at h
      · cases h
      · split at h
        · cases h
        · cases h; simp [h1]

/-- Validation raises nothing but ValidationError (R67, 60_exceptions.md R103). -/
theorem validate_error {cfg : Config} {c : Command} {a : DWord} {e : Error} (h : validate cfg c a = .error e) :
    ∃ cause, e = .validation cause := by
  unfold validate validateNone validateAsc validateU16 operandU16 at h
  repeat' split at h
  all_goals cases h
  all_goals first
    | exact ⟨_, rfl⟩
    | (rename_i hx; split at hx <;> cases hx; exact ⟨_, rfl⟩)

theorem frame_length (cfg : Config) (c : Command) (args : List Word) :
    (frame cfg c args).length = (if cfg.cmdWordCrc then 3 else 2) + 3 * args.length := by
  unfold frame frameHead
  cases cfg.cmdWordCrc
  · simp
    omega
  · simp

/-- A frame of at most one argument word fits TXBUF (10_state.md R13). -/
theorem frame_fits (cfg : Config) (c : Command) {args : List Word} (h : args.length ≤ Config.maxArgWords) :
    (frame cfg c args).length ≤ Config.txCapacity := by
  have h1 : args.length ≤ 1 := h
  have h2 : Config.txCapacity = 6 := rfl
  rw [frame_length, h2]
  split <;> omega

end Sys2Proof.Machine
end

