-- ==== Sys2Proof/Laws/Decode.lean ====
section
/-! SUPPORT. Packing and unpacking of requests (30_encoding.md R29): no bit of a field is dropped. -/

namespace Sys2Proof

/-- The low part of a concatenation. -/
theorem extract_append_low {n m : Nat} (x : BitVec n) (y : BitVec m) : (x ++ y).extractLsb' 0 m = y := by
  rw [BitVec.extractLsb'_append_eq_of_add_le (by omega)]
  simp

/-- A field above the low part of a concatenation is a field of the high part. -/
theorem extract_append_high {n m : Nat} (x : BitVec n) (y : BitVec m) (k w : Nat) :
    (x ++ y).extractLsb' (m + k) w = x.extractLsb' k w := by
  rw [BitVec.extractLsb'_append_eq_of_le (by omega)]
  simp

/-- Unpacking a packed request gives its fields back. -/
@[simp] theorem ReqFields.request_fields (q : ReqFields) : q.request.fields = q := by
  have ho : q.request.word.extractLsb' 0 8 = q.opsel := extract_append_low (q.a ++ q.b ++ q.cmd) q.opsel
  have hc : q.request.word.extractLsb' 8 8 = q.cmd :=
    (extract_append_high (q.a ++ q.b ++ q.cmd) q.opsel 0 8).trans (extract_append_low (q.a ++ q.b) q.cmd)
  have hb : q.request.word.extractLsb' 16 8 = q.b :=
    (extract_append_high (q.a ++ q.b ++ q.cmd) q.opsel 8 8).trans
      ((extract_append_high (q.a ++ q.b) q.cmd 0 8).trans (extract_append_low q.a q.b))
  have ha : q.request.word.extractLsb' 24 32 = q.a :=
    (extract_append_high (q.a ++ q.b ++ q.cmd) q.opsel 16 32).trans
      ((extract_append_high (q.a ++ q.b) q.cmd 8 32).trans
        ((extract_append_high q.a q.b 0 32).trans (by simp)))
  cases q
  simp only [Request.fields, ho, hc, hb, ha]
  rfl

/-- The byte list of an operation's request is the one it carries. -/
@[simp] theorem Instr.fields_data (i : Instr) : i.fields.data = i.dataBytes := by cases i <;> rfl

/-- The selector of an operation's request is the one of its row (R30). -/
@[simp] theorem Instr.fields_opsel (i : Instr) : i.fields.opsel = i.opsel := by cases i <;> rfl

/-- Latched fields are rejected for a reserved selector and nothing else (R33, R37). -/
theorem ReqFields.decode_error {q : ReqFields} {e : Reject} (h : q.decode = .error e) : e = .reserved q.opsel := by
  unfold ReqFields.decode at h
  split at h <;> cases h
  rfl

@[simp] theorem bytesOfNat_length (n v : Nat) : (bytesOfNat n v).length = n := by
  induction n generalizing v with
  | zero => rfl
  | succ n ih => simp [bytesOfNat, ih]

/-- The first `n` bytes of a number are the number modulo `256 ^ n`. -/
theorem leBytes_bytesOfNat (n v : Nat) : leBytes (bytesOfNat n v) = v % 256 ^ n := by
  induction n generalizing v with
  | zero => simp [leBytes, bytesOfNat, Nat.mod_one]
  | succ n ih =>
    have h : (BitVec.ofNat 8 v).toNat = v % 256 := by simp
    rw [bytesOfNat, leBytes, ih, h, pow_succ, Nat.mul_comm (256 ^ n) 256, Nat.mod_mul]

/-- A request is read back from its bytes (log 20). -/
theorem Request.ofBytes_toBytes (r : Request) : Request.ofBytes r.toBytes = .ok r := by
  obtain ⟨w, data⟩ := r
  have hlen : ¬ (Request.toBytes ⟨w, data⟩).length < 7 := by simp [Request.toBytes]
  have hword : BitVec.ofNat 56 (leBytes ((Request.toBytes ⟨w, data⟩).take 7)) = w := by
    rw [Request.toBytes, List.take_left' (bytesOfNat_length 7 _), leBytes_bytesOfNat]
    apply BitVec.eq_of_toNat_eq
    have := w.isLt
    simp only [BitVec.toNat_ofNat]
    norm_num at this ⊢
    omega
  have hdata : (Request.toBytes ⟨w, data⟩).drop 7 = data := by
    rw [Request.toBytes, List.drop_left' (bytesOfNat_length 7 _)]
  rw [Request.ofBytes, if_neg hlen, hword, hdata]

end Sys2Proof
end

