-- ==== Sys2Proof/Laws/Memory.lean ====
section
/-! SUPPORT. The byte store (20_memory.md R21): a read gives what was last written there, a write leaves every other index
alone, and every operation keeps the canonical form. -/

namespace Sys2Proof.Machine

@[simp] theorem Memory.read_nil (i : Nat) : Memory.read [] i = none := rfl

/-- In a canonical store every later index is above the first. -/
theorem Memory.wf_head_lt {c : Host.Cell} {rest : Memory} (h : Memory.wf (c :: rest) = true) :
    Memory.wf rest = true ∧ ∀ d ∈ rest, c.1 < d.1 := by
  induction rest generalizing c with
  | nil => exact ⟨rfl, by simp⟩
  | cons d rest ih =>
    simp only [Memory.wf, Bool.and_eq_true, decide_eq_true_eq] at h
    refine ⟨h.2, ?_⟩
    intro e he
    rcases List.mem_cons.mp he with rfl | he
    · exact h.1
    · exact lt_trans h.1 ((ih h.2).2 e he)

/-- A store is canonical if its rest is and every later index is above the first. -/
theorem Memory.wf_cons {c : Host.Cell} {rest : Memory} (hr : Memory.wf rest = true) (hc : ∀ d ∈ rest, c.1 < d.1) :
    Memory.wf (c :: rest) = true := by
  cases rest with
  | nil => rfl
  | cons d rest => simpa [Memory.wf] using ⟨hc d (by simp), hr⟩

/-- A read of an index below every listed one finds nothing. -/
theorem Memory.read_eq_none_of_lt {m : Memory} {i : Nat} (h : ∀ d ∈ m, i < d.1) : Memory.read m i = none := by
  induction m with
  | nil => rfl
  | cons c rest ih =>
    have hc : c.1 ≠ i := (h c (by simp)).ne'
    simp [Memory.read, hc, ih (fun d hd => h d (by simp [hd]))]

/-- The indices a write leaves listed: the one written and those listed before. -/
theorem Memory.mem_write {m : Memory} {i : Nat} {b : Byte} {d : Host.Cell} (h : d ∈ Memory.write m i b) :
    d = (i, b) ∨ d ∈ m := by
  induction m with
  | nil => simpa [Memory.write] using h
  | cons c rest ih =>
    simp only [Memory.write] at h
    split at h
    · simpa using h
    · split at h
      · rcases List.mem_cons.mp h with h | h
        · exact .inl h
        · exact .inr (by simp [h])
      · rcases List.mem_cons.mp h with h | h
        · exact .inr (by simp [h])
        · rcases ih h with h | h
          · exact .inl h
          · exact .inr (by simp [h])

/-- A write keeps the canonical form. -/
theorem Memory.wf_write {m : Memory} (h : Memory.wf m = true) (i : Nat) (b : Byte) :
    Memory.wf (Memory.write m i b) = true := by
  induction m with
  | nil => rfl
  | cons c rest ih =>
    obtain ⟨hr, hc⟩ := Memory.wf_head_lt h
    simp only [Memory.write]
    split
    · rename_i hlt
      refine Memory.wf_cons h (fun d hd => ?_)
      rcases List.mem_cons.mp hd with rfl | hd
      · exact hlt
      · exact lt_trans hlt (hc d hd)
    · rename_i hge
      split
      · rename_i heq
        exact Memory.wf_cons hr (fun d hd => by simpa [heq] using hc d hd)
      · rename_i hne
        refine Memory.wf_cons (ih hr) (fun d hd => ?_)
        rcases Memory.mem_write hd with rfl | hd
        · show c.1 < i
          omega
        · exact hc d hd

/-- A write of a list of bytes keeps the canonical form. -/
theorem Memory.wf_writeList {m : Memory} (h : Memory.wf m = true) (i : Nat) (bs : List Byte) :
    Memory.wf (Memory.writeList m i bs) = true := by
  induction bs generalizing m i with
  | nil => exact h
  | cons b bs ih => exact ih (Memory.wf_write h i b) (i + 1)

/-- `MemWrite` on TXBUF keeps the canonical form. -/
theorem txWrite_wf {m m' : Memory} {i : Nat} {bs : List Byte} (h : Memory.wf m = true) (hw : txWrite m i bs = .ok m') :
    Memory.wf m' = true := by
  simp only [txWrite] at hw
  split at hw
  · cases hw; exact Memory.wf_writeList h i bs
  · cases hw

/-- A read after a write at the same index gives the byte written; a write leaves every other index alone. -/
theorem Memory.read_write {m : Memory} (i j : Nat) (b : Byte) :
    Memory.read (Memory.write m i b) j = if j = i then some b else Memory.read m j := by
  induction m with
  | nil =>
    by_cases h : j = i
    · simp [Memory.write, Memory.read, h]
    · simp [Memory.write, Memory.read, h, Ne.symm h]
  | cons c rest ih =>
    simp only [Memory.write]
    split
    · by_cases h : j = i
      · simp [Memory.read, h]
      · simp [Memory.read, h, Ne.symm h]
    · split
      · rename_i heq
        by_cases h : j = i
        · simp [Memory.read, h]
        · simp [Memory.read, h, Ne.symm h, ← heq]
      · rename_i hge hne
        by_cases h : j = i
        · subst h
          simp [Memory.read, Ne.symm hne, ih]
        · by_cases hc : c.1 = j
          · simp [Memory.read, hc, h]
          · simp [Memory.read, hc, ih]

/-- What every index reads as after a list of bytes was written from index `i` upwards. -/
theorem Memory.read_writeList {m : Memory} (i j : Nat) (bs : List Byte) :
    Memory.read (Memory.writeList m i bs) j =
      if i ≤ j ∧ j < i + bs.length then bs[j - i]? else Memory.read m j := by
  induction bs generalizing m i with
  | nil =>
    have h : ¬ (i ≤ j ∧ j < i + ([] : List Byte).length) := by simp
    simp only [Memory.writeList, if_neg h]
  | cons b bs ih =>
    simp only [Memory.writeList, ih, Memory.read_write, List.length_cons]
    by_cases hji : j = i
    · subst hji
      simp
    · by_cases hlt : i ≤ j ∧ j < i + (bs.length + 1)
      · obtain ⟨k, rfl⟩ : ∃ k, j = i + 1 + k := ⟨j - (i + 1), by omega⟩
        have h1 : i + 1 ≤ i + 1 + k ∧ i + 1 + k < i + 1 + bs.length := by omega
        have h2 : i + 1 + k - i = k + 1 := by omega
        rw [if_pos h1, if_pos hlt, h2]
        simp
      · have h1 : ¬ (i + 1 ≤ j ∧ j < i + 1 + bs.length) := by omega
        rw [if_neg h1, if_neg hlt, if_neg hji]

/-- What `MemRead` gives if every byte it reads is set and inside the buffer: those bytes, in order. -/
theorem txRead_eq_ok {m : Memory} {i : Nat} {bs : List Byte} (hcap : i + bs.length ≤ Config.txCapacity)
    (h : ∀ k, k < bs.length → Memory.read m (i + k) = bs[k]?) : txRead m i bs.length = .ok bs := by
  induction bs generalizing i with
  | nil => rfl
  | cons b bs ih =>
    have hlen : i + (bs.length + 1) ≤ Config.txCapacity := by simpa using hcap
    have h0 : Memory.read m i = some b := by simpa using h 0 (by simp)
    have hi : ¬ Config.txCapacity ≤ i := by omega
    have htail : txRead m (i + 1) bs.length = .ok bs := by
      apply ih (by omega)
      intro k hk
      have := h (k + 1) (by simpa using hk)
      rw [show i + (k + 1) = i + 1 + k by omega] at this
      simpa using this
    simp [txRead, txByte, hi, h0, htail]

/-- A frame written at index 0 reads back whole. -/
theorem txRead_writeList {m : Memory} {bs : List Byte} (hcap : bs.length ≤ Config.txCapacity) :
    txRead (Memory.writeList m 0 bs) 0 bs.length = .ok bs := by
  apply txRead_eq_ok (by simpa using hcap)
  intro k hk
  simp [Memory.read_writeList, hk]

end Sys2Proof.Machine
end

