-- ==== Sys2Proof/Laws/PerInstr.lean ====
section
/-! SUPPORT. A law of every operation as a term: the request that carries it has exactly its fields (30_encoding.md R29, R31). -/

namespace Sys2Proof.Laws.RequestFields

/-- The request of an operation unpacks to the operation's own fields. -/
def Statement (i : Instr) : Prop := (encode i).fields = i.fields

theorem crc8 (a : DWord) : Statement (.crc8 a) := ReqFields.request_fields _

theorem verify (a : DWord) (b : Byte) : Statement (.verify a b) := ReqFields.request_fields _

theorem encU16 (a : DWord) : Statement (.encU16 a) := ReqFields.request_fields _

theorem encU32 (a : DWord) : Statement (.encU32 a) := ReqFields.request_fields _

theorem encF32 (a : DWord) : Statement (.encF32 a) := ReqFields.request_fields _

theorem decU16 (data : List Byte) : Statement (.decU16 data) := ReqFields.request_fields _

theorem decU32 (data : List Byte) : Statement (.decU32 data) := ReqFields.request_fields _

theorem decF32 (data : List Byte) : Statement (.decF32 data) := ReqFields.request_fields _

theorem decWords (b : Byte) (data : List Byte) : Statement (.decWords b data) := ReqFields.request_fields _

theorem serialize (cmd : Byte) (a : DWord) : Statement (.serialize cmd a) := ReqFields.request_fields _

theorem deframe (cmd : Byte) (data : List Byte) : Statement (.deframe cmd data) := ReqFields.request_fields _

theorem getFw (a : DWord) : Statement (.getFw a) := ReqFields.request_fields _

theorem softReset (a : DWord) : Statement (.softReset a) := ReqFields.request_fields _

theorem startCont (a : DWord) : Statement (.startCont a) := ReqFields.request_fields _

theorem stopCont (a : DWord) : Statement (.stopCont a) := ReqFields.request_fields _

theorem setInterval (a : DWord) : Statement (.setInterval a) := ReqFields.request_fields _

theorem getReady (a : DWord) : Statement (.getReady a) := ReqFields.request_fields _

theorem setReady : Statement .setReady := ReqFields.request_fields _

theorem readMeas (a : DWord) : Statement (.readMeas a) := ReqFields.request_fields _

theorem setToff (a : DWord) : Statement (.setToff a) := ReqFields.request_fields _

theorem getToff (a : DWord) : Statement (.getToff a) := ReqFields.request_fields _

theorem setAlt (a : DWord) : Statement (.setAlt a) := ReqFields.request_fields _

theorem getAlt (a : DWord) : Statement (.getAlt a) := ReqFields.request_fields _

theorem setPressure (a : DWord) : Statement (.setPressure a) := ReqFields.request_fields _

theorem setAsc (a : DWord) : Statement (.setAsc a) := ReqFields.request_fields _

theorem setFrc (a : DWord) : Statement (.setFrc a) := ReqFields.request_fields _

end Sys2Proof.Laws.RequestFields
end

