-- ==== Sys2Proof/Laws/State.lean ====
section
/-! SUPPORT. What each update of the state leaves in each field: true by definition, so that no later proof unfolds a record
update. -/

namespace Sys2Proof.Machine

/-! ### raise -/

@[simp] theorem raise_phase (e : Error) (s : State) : (raise e s).phase = .done := rfl
@[simp] theorem raise_req (e : Error) (s : State) : (raise e s).req = s.req := rfl
@[simp] theorem raise_reqArgs (e : Error) (s : State) : (raise e s).reqArgs = s.reqArgs := rfl
@[simp] theorem raise_crcreg (e : Error) (s : State) : (raise e s).crcreg = s.crcreg := rfl
@[simp] theorem raise_txbuf (e : Error) (s : State) : (raise e s).txbuf = s.txbuf := rfl
@[simp] theorem raise_txlen (e : Error) (s : State) : (raise e s).txlen = s.txlen := rfl
@[simp] theorem raise_rxbuf (e : Error) (s : State) : (raise e s).rxbuf = s.rxbuf := rfl
@[simp] theorem raise_rxlen (e : Error) (s : State) : (raise e s).rxlen = s.rxlen := rfl
@[simp] theorem raise_widx (e : Error) (s : State) : (raise e s).widx = s.widx := rfl
@[simp] theorem raise_res (e : Error) (s : State) : (raise e s).res = s.res := rfl
@[simp] theorem raise_resValid (e : Error) (s : State) : (raise e s).resValid = false := rfl
@[simp] theorem raise_err (e : Error) (s : State) : (raise e s).err = e.reg := rfl
@[simp] theorem raise_outstanding (e : Error) (s : State) : (raise e s).outstanding = false := rfl
@[simp] theorem raise_cfg (e : Error) (s : State) : (raise e s).cfg = s.cfg := rfl
@[simp] theorem raise_requests (e : Error) (s : State) : (raise e s).requests = s.requests := rfl
@[simp] theorem raise_inputs (e : Error) (s : State) : (raise e s).inputs = s.inputs := rfl
@[simp] theorem raise_trace (e : Error) (s : State) : (raise e s).trace = s.trace := rfl

/-! ### ret -/

@[simp] theorem ret_phase (v : Result) (s : State) : (ret v s).phase = .done := rfl
@[simp] theorem ret_req (v : Result) (s : State) : (ret v s).req = s.req := rfl
@[simp] theorem ret_reqArgs (v : Result) (s : State) : (ret v s).reqArgs = s.reqArgs := rfl
@[simp] theorem ret_crcreg (v : Result) (s : State) : (ret v s).crcreg = s.crcreg := rfl
@[simp] theorem ret_txbuf (v : Result) (s : State) : (ret v s).txbuf = s.txbuf := rfl
@[simp] theorem ret_txlen (v : Result) (s : State) : (ret v s).txlen = s.txlen := rfl
@[simp] theorem ret_rxbuf (v : Result) (s : State) : (ret v s).rxbuf = s.rxbuf := rfl
@[simp] theorem ret_rxlen (v : Result) (s : State) : (ret v s).rxlen = s.rxlen := rfl
@[simp] theorem ret_widx (v : Result) (s : State) : (ret v s).widx = s.widx := rfl
@[simp] theorem ret_res (v : Result) (s : State) : (ret v s).res = some v := rfl
@[simp] theorem ret_resValid (v : Result) (s : State) : (ret v s).resValid = true := rfl
@[simp] theorem ret_err (v : Result) (s : State) : (ret v s).err = ErrReg.clear := rfl
@[simp] theorem ret_outstanding (v : Result) (s : State) : (ret v s).outstanding = false := rfl
@[simp] theorem ret_cfg (v : Result) (s : State) : (ret v s).cfg = s.cfg := rfl
@[simp] theorem ret_requests (v : Result) (s : State) : (ret v s).requests = s.requests := rfl
@[simp] theorem ret_inputs (v : Result) (s : State) : (ret v s).inputs = s.inputs := rfl
@[simp] theorem ret_trace (v : Result) (s : State) : (ret v s).trace = s.trace := rfl

/-! ### enter -/

@[simp] theorem enter_phase (p : Phase) (s : State) : (enter p s).phase = p := rfl
@[simp] theorem enter_req (p : Phase) (s : State) : (enter p s).req = s.req := rfl
@[simp] theorem enter_reqArgs (p : Phase) (s : State) : (enter p s).reqArgs = s.reqArgs := rfl
@[simp] theorem enter_crcreg (p : Phase) (s : State) : (enter p s).crcreg = s.crcreg := rfl
@[simp] theorem enter_txbuf (p : Phase) (s : State) : (enter p s).txbuf = s.txbuf := rfl
@[simp] theorem enter_txlen (p : Phase) (s : State) : (enter p s).txlen = s.txlen := rfl
@[simp] theorem enter_rxbuf (p : Phase) (s : State) : (enter p s).rxbuf = s.rxbuf := rfl
@[simp] theorem enter_rxlen (p : Phase) (s : State) : (enter p s).rxlen = s.rxlen := rfl
@[simp] theorem enter_widx (p : Phase) (s : State) : (enter p s).widx = s.widx := rfl
@[simp] theorem enter_res (p : Phase) (s : State) : (enter p s).res = s.res := rfl
@[simp] theorem enter_resValid (p : Phase) (s : State) : (enter p s).resValid = s.resValid := rfl
@[simp] theorem enter_err (p : Phase) (s : State) : (enter p s).err = s.err := rfl
@[simp] theorem enter_outstanding (p : Phase) (s : State) : (enter p s).outstanding = false := rfl
@[simp] theorem enter_cfg (p : Phase) (s : State) : (enter p s).cfg = s.cfg := rfl
@[simp] theorem enter_requests (p : Phase) (s : State) : (enter p s).requests = s.requests := rfl
@[simp] theorem enter_inputs (p : Phase) (s : State) : (enter p s).inputs = s.inputs := rfl
@[simp] theorem enter_trace (p : Phase) (s : State) : (enter p s).trace = s.trace := rfl

/-! ### issue -/

@[simp] theorem issue_phase (e : PortEvent) (s : State) : (issue e s).phase = s.phase := rfl
@[simp] theorem issue_req (e : PortEvent) (s : State) : (issue e s).req = s.req := rfl
@[simp] theorem issue_reqArgs (e : PortEvent) (s : State) : (issue e s).reqArgs = s.reqArgs := rfl
@[simp] theorem issue_crcreg (e : PortEvent) (s : State) : (issue e s).crcreg = s.crcreg := rfl
@[simp] theorem issue_txbuf (e : PortEvent) (s : State) : (issue e s).txbuf = s.txbuf := rfl
@[simp] theorem issue_txlen (e : PortEvent) (s : State) : (issue e s).txlen = s.txlen := rfl
@[simp] theorem issue_rxbuf (e : PortEvent) (s : State) : (issue e s).rxbuf = s.rxbuf := rfl
@[simp] theorem issue_rxlen (e : PortEvent) (s : State) : (issue e s).rxlen = s.rxlen := rfl
@[simp] theorem issue_widx (e : PortEvent) (s : State) : (issue e s).widx = s.widx := rfl
@[simp] theorem issue_res (e : PortEvent) (s : State) : (issue e s).res = s.res := rfl
@[simp] theorem issue_resValid (e : PortEvent) (s : State) : (issue e s).resValid = s.resValid := rfl
@[simp] theorem issue_err (e : PortEvent) (s : State) : (issue e s).err = s.err := rfl
@[simp] theorem issue_outstanding (e : PortEvent) (s : State) : (issue e s).outstanding = true := rfl
@[simp] theorem issue_cfg (e : PortEvent) (s : State) : (issue e s).cfg = s.cfg := rfl
@[simp] theorem issue_requests (e : PortEvent) (s : State) : (issue e s).requests = s.requests := rfl
@[simp] theorem issue_inputs (e : PortEvent) (s : State) : (issue e s).inputs = s.inputs := rfl
@[simp] theorem issue_trace (e : PortEvent) (s : State) : (issue e s).trace = s.trace ++ [e] := rfl

/-! ### tick -/

@[simp] theorem tick_phase (s : State) : (tick s).phase = s.phase := rfl
@[simp] theorem tick_req (s : State) : (tick s).req = s.req := rfl
@[simp] theorem tick_reqArgs (s : State) : (tick s).reqArgs = s.reqArgs := rfl
@[simp] theorem tick_crcreg (s : State) : (tick s).crcreg = s.crcreg := rfl
@[simp] theorem tick_txbuf (s : State) : (tick s).txbuf = s.txbuf := rfl
@[simp] theorem tick_txlen (s : State) : (tick s).txlen = s.txlen := rfl
@[simp] theorem tick_rxbuf (s : State) : (tick s).rxbuf = s.rxbuf := rfl
@[simp] theorem tick_rxlen (s : State) : (tick s).rxlen = s.rxlen := rfl
@[simp] theorem tick_widx (s : State) : (tick s).widx = s.widx := rfl
@[simp] theorem tick_res (s : State) : (tick s).res = s.res := rfl
@[simp] theorem tick_resValid (s : State) : (tick s).resValid = s.resValid := rfl
@[simp] theorem tick_err (s : State) : (tick s).err = s.err := rfl
@[simp] theorem tick_outstanding (s : State) : (tick s).outstanding = s.outstanding := rfl
@[simp] theorem tick_cfg (s : State) : (tick s).cfg = s.cfg := rfl
@[simp] theorem tick_requests (s : State) : (tick s).requests = s.requests := rfl
@[simp] theorem tick_inputs (s : State) : (tick s).inputs = s.inputs.tail := rfl
@[simp] theorem tick_trace (s : State) : (tick s).trace = s.trace := rfl

/-! ### accept -/

@[simp] theorem accept_phase (r : Request) (rest : List Request) (s : State) : (accept r rest s).phase = s.phase := rfl
@[simp] theorem accept_req (r : Request) (rest : List Request) (s : State) : (accept r rest s).req = r.fields := rfl
@[simp] theorem accept_reqArgs (r : Request) (rest : List Request) (s : State) : (accept r rest s).reqArgs = s.reqArgs := rfl
@[simp] theorem accept_crcreg (r : Request) (rest : List Request) (s : State) : (accept r rest s).crcreg = s.crcreg := rfl
@[simp] theorem accept_txbuf (r : Request) (rest : List Request) (s : State) : (accept r rest s).txbuf = s.txbuf := rfl
@[simp] theorem accept_txlen (r : Request) (rest : List Request) (s : State) : (accept r rest s).txlen = s.txlen := rfl
@[simp] theorem accept_rxbuf (r : Request) (rest : List Request) (s : State) : (accept r rest s).rxbuf = s.rxbuf := rfl
@[simp] theorem accept_rxlen (r : Request) (rest : List Request) (s : State) : (accept r rest s).rxlen = s.rxlen := rfl
@[simp] theorem accept_widx (r : Request) (rest : List Request) (s : State) : (accept r rest s).widx = s.widx := rfl
@[simp] theorem accept_res (r : Request) (rest : List Request) (s : State) : (accept r rest s).res = none := rfl
@[simp] theorem accept_resValid (r : Request) (rest : List Request) (s : State) : (accept r rest s).resValid = false := rfl
@[simp] theorem accept_err (r : Request) (rest : List Request) (s : State) : (accept r rest s).err = ErrReg.clear := rfl
@[simp] theorem accept_outstanding (r : Request) (rest : List Request) (s : State) : (accept r rest s).outstanding = s.outstanding := rfl
@[simp] theorem accept_cfg (r : Request) (rest : List Request) (s : State) : (accept r rest s).cfg = s.cfg := rfl
@[simp] theorem accept_requests (r : Request) (rest : List Request) (s : State) : (accept r rest s).requests = rest := rfl
@[simp] theorem accept_inputs (r : Request) (rest : List Request) (s : State) : (accept r rest s).inputs = s.inputs := rfl
@[simp] theorem accept_trace (r : Request) (rest : List Request) (s : State) : (accept r rest s).trace = s.trace := rfl

/-! ### crcPass -/

@[simp] theorem crcPass_phase (w : Word) (s : State) : (crcPass w s).phase = s.phase := rfl
@[simp] theorem crcPass_req (w : Word) (s : State) : (crcPass w s).req = s.req := rfl
@[simp] theorem crcPass_reqArgs (w : Word) (s : State) : (crcPass w s).reqArgs = s.reqArgs := rfl
@[simp] theorem crcPass_crcreg (w : Word) (s : State) : (crcPass w s).crcreg = crc8Word w := rfl
@[simp] theorem crcPass_txbuf (w : Word) (s : State) : (crcPass w s).txbuf = s.txbuf := rfl
@[simp] theorem crcPass_txlen (w : Word) (s : State) : (crcPass w s).txlen = s.txlen := rfl
@[simp] theorem crcPass_rxbuf (w : Word) (s : State) : (crcPass w s).rxbuf = s.rxbuf := rfl
@[simp] theorem crcPass_rxlen (w : Word) (s : State) : (crcPass w s).rxlen = s.rxlen := rfl
@[simp] theorem crcPass_widx (w : Word) (s : State) : (crcPass w s).widx = s.widx := rfl
@[simp] theorem crcPass_res (w : Word) (s : State) : (crcPass w s).res = s.res := rfl
@[simp] theorem crcPass_resValid (w : Word) (s : State) : (crcPass w s).resValid = s.resValid := rfl
@[simp] theorem crcPass_err (w : Word) (s : State) : (crcPass w s).err = s.err := rfl
@[simp] theorem crcPass_outstanding (w : Word) (s : State) : (crcPass w s).outstanding = s.outstanding := rfl
@[simp] theorem crcPass_cfg (w : Word) (s : State) : (crcPass w s).cfg = s.cfg := rfl
@[simp] theorem crcPass_requests (w : Word) (s : State) : (crcPass w s).requests = s.requests := rfl
@[simp] theorem crcPass_inputs (w : Word) (s : State) : (crcPass w s).inputs = s.inputs := rfl
@[simp] theorem crcPass_trace (w : Word) (s : State) : (crcPass w s).trace = s.trace := rfl

/-! ### crcPasses -/

@[simp] theorem crcPasses_phase (ws : List Word) (s : State) : (crcPasses ws s).phase = s.phase := rfl
@[simp] theorem crcPasses_req (ws : List Word) (s : State) : (crcPasses ws s).req = s.req := rfl
@[simp] theorem crcPasses_reqArgs (ws : List Word) (s : State) : (crcPasses ws s).reqArgs = s.reqArgs := rfl
@[simp] theorem crcPasses_crcreg (ws : List Word) (s : State) : (crcPasses ws s).crcreg = crcAfter ws s.crcreg := rfl
@[simp] theorem crcPasses_txbuf (ws : List Word) (s : State) : (crcPasses ws s).txbuf = s.txbuf := rfl
@[simp] theorem crcPasses_txlen (ws : List Word) (s : State) : (crcPasses ws s).txlen = s.txlen := rfl
@[simp] theorem crcPasses_rxbuf (ws : List Word) (s : State) : (crcPasses ws s).rxbuf = s.rxbuf := rfl
@[simp] theorem crcPasses_rxlen (ws : List Word) (s : State) : (crcPasses ws s).rxlen = s.rxlen := rfl
@[simp] theorem crcPasses_widx (ws : List Word) (s : State) : (crcPasses ws s).widx = s.widx := rfl
@[simp] theorem crcPasses_res (ws : List Word) (s : State) : (crcPasses ws s).res = s.res := rfl
@[simp] theorem crcPasses_resValid (ws : List Word) (s : State) : (crcPasses ws s).resValid = s.resValid := rfl
@[simp] theorem crcPasses_err (ws : List Word) (s : State) : (crcPasses ws s).err = s.err := rfl
@[simp] theorem crcPasses_outstanding (ws : List Word) (s : State) : (crcPasses ws s).outstanding = s.outstanding := rfl
@[simp] theorem crcPasses_cfg (ws : List Word) (s : State) : (crcPasses ws s).cfg = s.cfg := rfl
@[simp] theorem crcPasses_requests (ws : List Word) (s : State) : (crcPasses ws s).requests = s.requests := rfl
@[simp] theorem crcPasses_inputs (ws : List Word) (s : State) : (crcPasses ws s).inputs = s.inputs := rfl
@[simp] theorem crcPasses_trace (ws : List Word) (s : State) : (crcPasses ws s).trace = s.trace := rfl

/-! ### loadRx -/

@[simp] theorem loadRx_phase (bytes : List Byte) (s : State) : (loadRx bytes s).phase = s.phase := rfl
@[simp] theorem loadRx_req (bytes : List Byte) (s : State) : (loadRx bytes s).req = s.req := rfl
@[simp] theorem loadRx_reqArgs (bytes : List Byte) (s : State) : (loadRx bytes s).reqArgs = s.reqArgs := rfl
@[simp] theorem loadRx_crcreg (bytes : List Byte) (s : State) : (loadRx bytes s).crcreg = s.crcreg := rfl
@[simp] theorem loadRx_txbuf (bytes : List Byte) (s : State) : (loadRx bytes s).txbuf = s.txbuf := rfl
@[simp] theorem loadRx_txlen (bytes : List Byte) (s : State) : (loadRx bytes s).txlen = s.txlen := rfl
@[simp] theorem loadRx_rxbuf (bytes : List Byte) (s : State) : (loadRx bytes s).rxbuf = bytes := rfl
@[simp] theorem loadRx_rxlen (bytes : List Byte) (s : State) : (loadRx bytes s).rxlen = bytes.length := rfl
@[simp] theorem loadRx_widx (bytes : List Byte) (s : State) : (loadRx bytes s).widx = s.widx := rfl
@[simp] theorem loadRx_res (bytes : List Byte) (s : State) : (loadRx bytes s).res = s.res := rfl
@[simp] theorem loadRx_resValid (bytes : List Byte) (s : State) : (loadRx bytes s).resValid = s.resValid := rfl
@[simp] theorem loadRx_err (bytes : List Byte) (s : State) : (loadRx bytes s).err = s.err := rfl
@[simp] theorem loadRx_outstanding (bytes : List Byte) (s : State) : (loadRx bytes s).outstanding = s.outstanding := rfl
@[simp] theorem loadRx_cfg (bytes : List Byte) (s : State) : (loadRx bytes s).cfg = s.cfg := rfl
@[simp] theorem loadRx_requests (bytes : List Byte) (s : State) : (loadRx bytes s).requests = s.requests := rfl
@[simp] theorem loadRx_inputs (bytes : List Byte) (s : State) : (loadRx bytes s).inputs = s.inputs := rfl
@[simp] theorem loadRx_trace (bytes : List Byte) (s : State) : (loadRx bytes s).trace = s.trace := rfl

/-! ### afterVerify -/

@[simp] theorem afterVerify_phase (bytes : List Byte) (s : State) : (afterVerify bytes s).phase = s.phase := rfl
@[simp] theorem afterVerify_req (bytes : List Byte) (s : State) : (afterVerify bytes s).req = s.req := rfl
@[simp] theorem afterVerify_reqArgs (bytes : List Byte) (s : State) : (afterVerify bytes s).reqArgs = s.reqArgs := rfl
@[simp] theorem afterVerify_crcreg (bytes : List Byte) (s : State) : (afterVerify bytes s).crcreg = (verifyFrom 0 s.crcreg s.widx bytes).crcreg := rfl
@[simp] theorem afterVerify_txbuf (bytes : List Byte) (s : State) : (afterVerify bytes s).txbuf = s.txbuf := rfl
@[simp] theorem afterVerify_txlen (bytes : List Byte) (s : State) : (afterVerify bytes s).txlen = s.txlen := rfl
@[simp] theorem afterVerify_rxbuf (bytes : List Byte) (s : State) : (afterVerify bytes s).rxbuf = s.rxbuf := rfl
@[simp] theorem afterVerify_rxlen (bytes : List Byte) (s : State) : (afterVerify bytes s).rxlen = s.rxlen := rfl
@[simp] theorem afterVerify_widx (bytes : List Byte) (s : State) : (afterVerify bytes s).widx = (verifyFrom 0 s.crcreg s.widx bytes).widx := rfl
@[simp] theorem afterVerify_res (bytes : List Byte) (s : State) : (afterVerify bytes s).res = s.res := rfl
@[simp] theorem afterVerify_resValid (bytes : List Byte) (s : State) : (afterVerify bytes s).resValid = s.resValid := rfl
@[simp] theorem afterVerify_err (bytes : List Byte) (s : State) : (afterVerify bytes s).err = s.err := rfl
@[simp] theorem afterVerify_outstanding (bytes : List Byte) (s : State) : (afterVerify bytes s).outstanding = s.outstanding := rfl
@[simp] theorem afterVerify_cfg (bytes : List Byte) (s : State) : (afterVerify bytes s).cfg = s.cfg := rfl
@[simp] theorem afterVerify_requests (bytes : List Byte) (s : State) : (afterVerify bytes s).requests = s.requests := rfl
@[simp] theorem afterVerify_inputs (bytes : List Byte) (s : State) : (afterVerify bytes s).inputs = s.inputs := rfl
@[simp] theorem afterVerify_trace (bytes : List Byte) (s : State) : (afterVerify bytes s).trace = s.trace := rfl

/-! ### resetBlock -/

@[simp] theorem resetBlock_phase (s : State) : (resetBlock s).phase = .idle := rfl
@[simp] theorem resetBlock_req (s : State) : (resetBlock s).req = OpenParam.unsetReq := rfl
@[simp] theorem resetBlock_reqArgs (s : State) : (resetBlock s).reqArgs = OpenParam.unsetReqArg.toList :=
  rfl
@[simp] theorem resetBlock_crcreg (s : State) : (resetBlock s).crcreg = Config.crcInit := rfl
@[simp] theorem resetBlock_txbuf (s : State) : (resetBlock s).txbuf = [] := rfl
@[simp] theorem resetBlock_txlen (s : State) : (resetBlock s).txlen = 0 := rfl
@[simp] theorem resetBlock_rxbuf (s : State) : (resetBlock s).rxbuf = [] := rfl
@[simp] theorem resetBlock_rxlen (s : State) : (resetBlock s).rxlen = 0 := rfl
@[simp] theorem resetBlock_widx (s : State) : (resetBlock s).widx = 0 := rfl
@[simp] theorem resetBlock_res (s : State) : (resetBlock s).res = none := rfl
@[simp] theorem resetBlock_resValid (s : State) : (resetBlock s).resValid = false := rfl
@[simp] theorem resetBlock_err (s : State) : (resetBlock s).err = ErrReg.clear := rfl
@[simp] theorem resetBlock_outstanding (s : State) : (resetBlock s).outstanding = false := rfl
@[simp] theorem resetBlock_cfg (s : State) : (resetBlock s).cfg = s.cfg := rfl
@[simp] theorem resetBlock_requests (s : State) : (resetBlock s).requests = s.requests := rfl
@[simp] theorem resetBlock_inputs (s : State) : (resetBlock s).inputs = s.inputs := rfl
@[simp] theorem resetBlock_trace (s : State) : (resetBlock s).trace = s.trace := rfl

/-! ### present -/

@[simp] theorem present_phase (r : Request) (s : State) : (present r s).phase = if reqReady s then s.phase else .idle := rfl
@[simp] theorem present_req (r : Request) (s : State) : (present r s).req = s.req := rfl
@[simp] theorem present_reqArgs (r : Request) (s : State) : (present r s).reqArgs = s.reqArgs := rfl
@[simp] theorem present_crcreg (r : Request) (s : State) : (present r s).crcreg = s.crcreg := rfl
@[simp] theorem present_txbuf (r : Request) (s : State) : (present r s).txbuf = s.txbuf := rfl
@[simp] theorem present_txlen (r : Request) (s : State) : (present r s).txlen = s.txlen := rfl
@[simp] theorem present_rxbuf (r : Request) (s : State) : (present r s).rxbuf = s.rxbuf := rfl
@[simp] theorem present_rxlen (r : Request) (s : State) : (present r s).rxlen = s.rxlen := rfl
@[simp] theorem present_widx (r : Request) (s : State) : (present r s).widx = s.widx := rfl
@[simp] theorem present_res (r : Request) (s : State) : (present r s).res = s.res := rfl
@[simp] theorem present_resValid (r : Request) (s : State) : (present r s).resValid = s.resValid := rfl
@[simp] theorem present_err (r : Request) (s : State) : (present r s).err = s.err := rfl
@[simp] theorem present_outstanding (r : Request) (s : State) : (present r s).outstanding = if reqReady s then s.outstanding else false := rfl
@[simp] theorem present_cfg (r : Request) (s : State) : (present r s).cfg = s.cfg := rfl
@[simp] theorem present_requests (r : Request) (s : State) : (present r s).requests = r :: s.requests.tail := rfl
@[simp] theorem present_inputs (r : Request) (s : State) : (present r s).inputs = releaseReset s.inputs := rfl
@[simp] theorem present_trace (r : Request) (s : State) : (present r s).trace = s.trace := rfl

/-! ### finish -/

@[simp] theorem finish_ok (v : Result) (s : State) : finish (.ok v) s = ret v s := rfl

@[simp] theorem finish_error (e : Error) (s : State) : finish (.error e) s = raise e s := rfl

@[simp] theorem finish_phase (o : Except Error Result) (s : State) : (finish o s).phase = .done := by cases o <;> rfl
@[simp] theorem finish_req (o : Except Error Result) (s : State) : (finish o s).req = s.req := by cases o <;> rfl
@[simp] theorem finish_reqArgs (o : Except Error Result) (s : State) : (finish o s).reqArgs = s.reqArgs := by cases o <;> rfl
@[simp] theorem finish_crcreg (o : Except Error Result) (s : State) : (finish o s).crcreg = s.crcreg := by cases o <;> rfl
@[simp] theorem finish_txbuf (o : Except Error Result) (s : State) : (finish o s).txbuf = s.txbuf := by cases o <;> rfl
@[simp] theorem finish_txlen (o : Except Error Result) (s : State) : (finish o s).txlen = s.txlen := by cases o <;> rfl
@[simp] theorem finish_rxbuf (o : Except Error Result) (s : State) : (finish o s).rxbuf = s.rxbuf := by cases o <;> rfl
@[simp] theorem finish_rxlen (o : Except Error Result) (s : State) : (finish o s).rxlen = s.rxlen := by cases o <;> rfl
@[simp] theorem finish_widx (o : Except Error Result) (s : State) : (finish o s).widx = s.widx := by cases o <;> rfl
@[simp] theorem finish_outstanding (o : Except Error Result) (s : State) : (finish o s).outstanding = false := by cases o <;> rfl
@[simp] theorem finish_cfg (o : Except Error Result) (s : State) : (finish o s).cfg = s.cfg := by cases o <;> rfl
@[simp] theorem finish_requests (o : Except Error Result) (s : State) : (finish o s).requests = s.requests := by cases o <;> rfl
@[simp] theorem finish_inputs (o : Except Error Result) (s : State) : (finish o s).inputs = s.inputs := by cases o <;> rfl
@[simp] theorem finish_trace (o : Except Error Result) (s : State) : (finish o s).trace = s.trace := by cases o <;> rfl

/-- `finish` leaves exactly the outcome it is given (10_state.md R15, R16). -/
theorem finish_outcome (o : Except Error Result) (s : State) :
    (finish o s).resValid = o.isOk ∧ (finish o s).err = (match o with | .ok _ => ErrReg.clear | .error e => e.reg) ∧
      (finish o s).res = (match o with | .ok v => some v | .error _ => s.res) := by
  cases o <;> exact ⟨rfl, rfl, rfl⟩


/-! ### thenTick -/

@[simp] theorem thenTick_next (s : State) : thenTick (.next s) = .next (tick s) := rfl

@[simp] theorem thenTick_fault (f : Fault) : thenTick (.fault f) = .fault f := rfl

@[simp] theorem thenTick_refused (r : Refusal) : thenTick (.refused r) = .refused r := rfl

/-- A next state after `thenTick` is the tick of a next state before it. -/
theorem thenTick_eq_next {o : Step} {t : State} (h : thenTick o = .next t) : ∃ u, o = .next u ∧ t = tick u := by
  cases o with
  | next u => exact ⟨u, rfl, by simpa [thenTick] using h.symm⟩
  | fault f => simp [thenTick] at h
  | refused r => simp [thenTick] at h

end Sys2Proof.Machine
end

