-- ==== Sys2Proof/Laws/Step.lean ====
section
/-! SUPPORT. What a step can do, said once: the rows of the sequencer (43_exchange_sequencer.md R75), the shape of every other
operation, and the cases of `fetch` and `step`. -/

namespace Sys2Proof.Machine

/-- The meaning of every catalog command is the sequencer's step for it. -/
@[simp] theorem exec_toInstr (c : Command) (a : DWord) (s : State) : exec (c.toInstr a) s = seqStep c a s := by
  cases c <;> rfl

/-- An operation is pure, or SET_READY, or the exchange of a catalog command (30_encoding.md R30). -/
theorem Instr.kinds (i : Instr) : i.isPure = true ∨ i = .setReady ∨ ∃ c a, i = Command.toInstr c a := by
  cases i
  case setReady => exact .inr (.inl rfl)
  case getFw a => exact .inr (.inr ⟨.getFw, a, rfl⟩)
  case softReset a => exact .inr (.inr ⟨.softReset, a, rfl⟩)
  case startCont a => exact .inr (.inr ⟨.startCont, a, rfl⟩)
  case stopCont a => exact .inr (.inr ⟨.stopCont, a, rfl⟩)
  case setInterval a => exact .inr (.inr ⟨.setInterval, a, rfl⟩)
  case getReady a => exact .inr (.inr ⟨.getReady, a, rfl⟩)
  case readMeas a => exact .inr (.inr ⟨.readMeas, a, rfl⟩)
  case setToff a => exact .inr (.inr ⟨.setToff, a, rfl⟩)
  case getToff a => exact .inr (.inr ⟨.getToff, a, rfl⟩)
  case setAlt a => exact .inr (.inr ⟨.setAlt, a, rfl⟩)
  case getAlt a => exact .inr (.inr ⟨.getAlt, a, rfl⟩)
  case setPressure a => exact .inr (.inr ⟨.setPressure, a, rfl⟩)
  case setAsc a => exact .inr (.inr ⟨.setAsc, a, rfl⟩)
  case setFrc a => exact .inr (.inr ⟨.setFrc, a, rfl⟩)
  all_goals exact .inl rfl

/-- The fields a pure operation may change before its outcome: `CRCREG`, `WIDX` and RXBUF with its length. -/
def scratch (crc : Byte) (widx : Nat) (rx : List Byte) (len : Nat) (s : State) : State :=
  { s with crcreg := crc, widx := widx, rxbuf := rx, rxlen := len }

/-- Every pure operation, and SET_READY, ends with an outcome in the same step, whatever the state (10_state.md R10). -/
theorem exec_finishes {i : Instr} (hi : i.isPure = true ∨ i = .setReady) (s : State) :
    ∃ o crc widx rx len, exec i s = .next (finish o (scratch crc widx rx len s)) := by
  have same : ∀ o : Except Error Result, ∃ o' crc widx rx len,
      (Host.Outcome.next (finish o s) : Step) = .next (finish o' (scratch crc widx rx len s)) :=
    fun o => ⟨o, s.crcreg, s.widx, s.rxbuf, s.rxlen, rfl⟩
  have crcOnly : ∀ (o : Except Error Result) (c : Byte), ∃ o' crc widx rx len,
      (Host.Outcome.next (finish o { s with crcreg := c }) : Step) = .next (finish o' (scratch crc widx rx len s)) :=
    fun o c => ⟨o, c, s.widx, s.rxbuf, s.rxlen, rfl⟩
  have loaded : ∀ (o : Except Error Result) (data : List Byte), ∃ o' crc widx rx len,
      (Host.Outcome.next (finish o (loadRx data s)) : Step) = .next (finish o' (scratch crc widx rx len s)) :=
    fun o data => ⟨o, s.crcreg, s.widx, data, data.length, rfl⟩
  have decoded : ∀ (data : List Byte) (n : Nat) (typed : List Word → Result), ∃ o' crc widx rx len,
      (Host.Outcome.next (finishDecode data n typed (loadRx data s)) : Step) =
        .next (finish o' (scratch crc widx rx len s)) :=
    fun data n typed => ⟨(decWords data n).map typed, (verifyFrom 0 s.crcreg s.widx data).crcreg,
      (verifyFrom 0 s.crcreg s.widx data).widx, data, data.length, rfl⟩
  cases i
  case crc8 a =>
    show ∃ o' crc widx rx len, execCrc8 a s = _
    unfold execCrc8
    split
    · exact same (.error _)
    · exact crcOnly (.ok _) _
  case verify a b =>
    show ∃ o' crc widx rx len, execVerify a b s = _
    unfold execVerify
    split
    · exact same (.error _)
    · exact crcOnly (.ok _) _
  case encU16 a =>
    show ∃ o' crc widx rx len, execEncU16 a s = _
    unfold execEncU16
    split
    · exact same (.error _)
    · exact crcOnly (.ok _) _
  case encU32 a => exact crcOnly (.ok (.bytes (wire32 a))) (crcAfter [hiWord a, loWord a] s.crcreg)
  case encF32 a => exact crcOnly (.ok (.bytes (wire32 a))) (crcAfter [hiWord a, loWord a] s.crcreg)
  case decU16 data => exact decoded data 1 _
  case decU32 data => exact decoded data 2 _
  case decF32 data => exact decoded data 2 _
  case decWords b data =>
    show ∃ o' crc widx rx len, execDecWords b data s = _
    unfold execDecWords
    split
    · exact loaded (.error _) data
    · exact decoded data _ _
  case serialize cmd a =>
    show ∃ o' crc widx rx len, execSerialize cmd a s = _
    unfold execSerialize
    split
    · exact same (.error _)
    · split
      · exact same (.error _)
      · exact crcOnly (.ok _) _
  case deframe cmd data =>
    show ∃ o' crc widx rx len, execDeframe cmd data s = _
    unfold execDeframe
    split
    · exact loaded (.error _) data
    · exact decoded data _ _
  case setReady => exact same (.error (.unsupported 0x16#8))
  all_goals exact absurd hi (by simp [Instr.isPure, Instr.opsel])

/-- Everything the sequencer's step can lead to: one case for each row of R75, and waiting. -/
theorem seqStep_cases {c : Command} {a : DWord} {s t : State} (h : seqStep c a s = .next t) :
    (reqReady s = true ∧ t = enter .validate s) ∨
    (s.phase = .validate ∧ ∃ e, validate s.cfg c a = .error e ∧ t = raise e s) ∨
    (s.phase = .validate ∧ ∃ args, validate s.cfg c a = .ok args ∧ t = enter .encode { s with reqArgs := args }) ∨
    (s.phase = .encode ∧ ∃ m, txWrite s.txbuf 0 (frame s.cfg c s.reqArgs) = .ok m ∧
      t = enter .transmit
        { crcPasses (frameWords s.cfg c s.reqArgs) s with txbuf := m, txlen := (frame s.cfg c s.reqArgs).length }) ∨
    (s.phase = .transmit ∧ s.outstanding = false ∧ ∃ bytes, txRead s.txbuf 0 s.txlen = .ok bytes ∧
      t = issue (.write s.cfg.devAddr bytes) s) ∨
    (s.phase = .transmit ∧ s.outstanding = true ∧ answer s = some .writeOk ∧ t = enter .await s) ∨
    (s.phase = .await ∧ s.outstanding = false ∧ t = issue (.wait (delayMs s.cfg c)) s) ∨
    (s.phase = .await ∧ s.outstanding = true ∧ answer s = some .done ∧ respWords c = 0 ∧ t = ret .unit s) ∨
    (s.phase = .await ∧ s.outstanding = true ∧ answer s = some .done ∧ respWords c ≠ 0 ∧ t = enter .receive s) ∨
    (s.phase = .receive ∧ s.outstanding = false ∧
      t = issue (.read s.cfg.devAddr (Config.wireWordBytes * respWords c)) s) ∨
    (s.phase = .receive ∧ s.outstanding = true ∧ ∃ bytes, answer s = some (.readOk bytes) ∧
      t = enter .decode (loadRx bytes s)) ∨
    ((s.phase = .transmit ∨ s.phase = .receive) ∧ s.outstanding = true ∧ ∃ k, answer s = some (.fail k) ∧
      t = raise (.transport k) s) ∨
    (s.phase = .decode ∧ t = finishDecode s.rxbuf (respWords c) (decodeResult c) s) ∨
    ((s.phase = .transmit ∨ s.phase = .await ∨ s.phase = .receive) ∧ s.outstanding = true ∧ t = s) := by
  unfold seqStep at h
  split at h <;> rename_i hp
  · cases h; simp [reqReady, hp]
  · cases h; simp [reqReady, hp]
  · unfold seqValidate at h
    split at h <;> rename_i hv <;> cases h
    · simp [reqReady, hp, hv]
    · simp [reqReady, hp, hv]
  · unfold seqEncode at h
    split at h <;> rename_i hw <;> cases h
    simp [reqReady, hp, hw]
  · unfold seqTransmit at h
    split at h
    · rename_i ho
      split at h <;> cases h
      · rename_i hx; simp [reqReady, hp, ho, hx]
      · rename_i hx; simp [reqReady, hp, ho, hx]
      · simp [hp, ho]
    · rename_i ho
      split at h <;> rename_i hr <;> cases h
      simp [reqReady, hp, ho, hr]
  · unfold seqAwait at h
    split at h
    · rename_i ho
      split at h
      · rename_i hx
        split at h <;> rename_i hn <;> cases h
        · simp [reqReady, hp, ho, hx, hn]
        · simp [reqReady, hp, ho, hx, hn]
      · cases h
        simp [hp, ho]
    · rename_i ho
      cases h
      simp [reqReady, hp, ho]
  · unfold seqReceive at h
    split at h
    · rename_i ho
      split at h <;> cases h
      · rename_i hx; simp [reqReady, hp, ho, hx]
      · rename_i hx; simp [reqReady, hp, ho, hx]
      · simp [hp, ho]
    · rename_i ho
      cases h
      simp [reqReady, hp, ho]
  · cases h
    simp [reqReady, hp]

/-- What `fetch` finds when the block is ready (R74). -/
theorem fetch_ready {s : State} (hr : reqReady s = true) :
    fetch s = match s.requests with
      | [] => .idle
      | r :: rest => fetchedOf r.fields (accept r rest s) := by
  unfold fetch
  exact if_pos hr

/-- What `fetch` finds while an exchange runs (20_memory.md R27). -/
theorem fetch_busy {s : State} (hb : reqReady s = false) :
    fetch s = fetchedOf s.req s := by
  unfold fetch
  exact if_neg (by simp [hb])

/-- Latched fields that decode to an operation are run. -/
theorem fetchedOf_ok {q : ReqFields} {i : Instr} (h : q.decode = .ok i) (s : State) : fetchedOf q s = .run i s := by
  simp [fetchedOf, h]

/-- A fetched operation is the one the request at the port, or the latched one, decodes to. -/
theorem fetch_run {s u : State} {i : Instr} (h : fetch s = .run i u) :
    (reqReady s = true ∧ ∃ r rest, s.requests = r :: rest ∧ decode r = .ok i ∧ u = accept r rest s) ∨
    (reqReady s = false ∧ s.req.decode = .ok i ∧ u = s) := by
  have key : ∀ (q : ReqFields) (v : State), fetchedOf q v = .run i u → q.decode = .ok i ∧ u = v := by
    intro q v hq
    unfold fetchedOf at hq
    split at hq <;> simp_all
  unfold fetch at h
  split at h
  · rename_i hr
    split at h
    · cases h
    · rename_i r rest hreq
      obtain ⟨hd, hu⟩ := key _ _ h
      exact .inl ⟨hr, r, rest, hreq, hd, hu⟩
  · rename_i hr
    obtain ⟨hd, hu⟩ := key _ _ h
    exact .inr ⟨by simpa using hr, hd, hu⟩

/-- A reserved selector comes from the request at the port, or from the latched one. -/
theorem fetch_reserved {s u : State} {sel : Byte} (h : fetch s = .reserved sel u) :
    (reqReady s = true ∧ ∃ r rest, s.requests = r :: rest ∧ decode r = .error (.reserved sel) ∧ u = accept r rest s) ∨
    (reqReady s = false ∧ s.req.decode = .error (.reserved sel) ∧ u = s) := by
  have key : ∀ (q : ReqFields) (v : State), fetchedOf q v = .reserved sel u →
      q.decode = .error (.reserved sel) ∧ u = v := by
    intro q v hq
    unfold fetchedOf at hq
    split at hq
    · cases hq
    · rename_i e he
      cases hq
      exact ⟨by rw [he, ReqFields.decode_error he], rfl⟩
  unfold fetch at h
  split at h
  · rename_i hr
    split at h
    · cases h
    · rename_i r rest hreq
      obtain ⟨hd, hu⟩ := key _ _ h
      exact .inl ⟨hr, r, rest, hreq, hd, hu⟩
  · rename_i hr
    obtain ⟨hd, hu⟩ := key _ _ h
    exact .inr ⟨by simpa using hr, hd, hu⟩

/-- With the reset input asserted a step is the reset (70_reset_and_hazards.md R114). -/
theorem step_reset {s : State} (h : resetAsserted s = true) : step s = .next (tick (resetBlock s)) := by
  rw [step, if_pos h]

/-- A step without reset that has an operation to run is that operation's meaning, and then time advances. -/
theorem step_run {s u : State} {i : Instr} (hn : resetAsserted s = false) (h : fetch s = .run i u) :
    step s = thenTick (exec i u) := by
  rw [step, if_neg (by simp [hn]), h]

/-- A step without reset that has nothing to run only lets time advance. -/
theorem step_idle {s : State} (hn : resetAsserted s = false) (h : fetch s = .idle) : step s = .next (tick s) := by
  rw [step, if_neg (by simp [hn]), h]

/-- A step without reset on a reserved selector refuses it (30_encoding.md R33). -/
theorem step_reserved {s u : State} {sel : Byte} (hn : resetAsserted s = false) (h : fetch s = .reserved sel u) :
    step s = .next (tick (raise (.unsupported sel) u)) := by
  rw [step, if_neg (by simp [hn]), h]
  rfl

/-- Everything a step can lead to. -/
theorem step_cases {s t : State} (h : step s = .next t) :
    (resetAsserted s = true ∧ t = tick (resetBlock s)) ∨
    (resetAsserted s = false ∧ fetch s = .idle ∧ t = tick s) ∨
    (resetAsserted s = false ∧ ∃ i u v, fetch s = .run i u ∧ exec i u = .next v ∧ t = tick v) ∨
    (resetAsserted s = false ∧ ∃ sel u, fetch s = .reserved sel u ∧ t = tick (raise (.unsupported sel) u)) := by
  cases hr : resetAsserted s with
  | true =>
    rw [step_reset hr] at h
    cases h
    exact .inl ⟨rfl, rfl⟩
  | false =>
    cases hf : fetch s with
    | idle =>
      rw [step_idle hr hf] at h
      cases h
      exact .inr (.inl ⟨rfl, rfl, rfl⟩)
    | run i u =>
      rw [step_run hr hf] at h
      obtain ⟨v, hv, ht⟩ := thenTick_eq_next h
      exact .inr (.inr (.inl ⟨rfl, i, u, v, rfl, hv, ht⟩))
    | reserved sel u =>
      rw [step_reserved hr hf] at h
      cases h
      exact .inr (.inr (.inr ⟨rfl, sel, u, rfl, rfl⟩))

/-- `answer` is nothing unless a transaction is outstanding (R115). -/
theorem answer_eq_none_of_not_outstanding {s : State} (h : s.outstanding = false) : answer s = none := by
  unfold answer
  split
  · simp [h]
  · rfl

end Sys2Proof.Machine
end

