-- ==== Sys2Proof/Tests/Slice0.lean ====
section
/-! SUPPORT. Tests of the model on the spec's own words and vectors (95_test_vectors.md, and the corner cases of the rules), and
for every statement with hypotheses a witness that meets them. -/

namespace Sys2Proof.Tests

-- Theorems one after the other: all at once, the kernel evaluations below ask for more threads than the memory limit allows.
set_option Elab.async false

open Sys2Proof.Machine Sys2Proof.Safety Sys2Proof.Stmt

/-! ### Small states -/

/-- The kind of transport failure that every transport has (log 3). -/
def someKind : TKind := ⟨0, rfl⟩

/-- The reference configuration (93_implementation_defined.md); the spec gives no delays, so these are arbitrary. -/
def ref : Config where
  devAddr := 0x61#7
  cmdAddr := Config.referenceCmdAddr
  delayMs := PerCommand.ofFn fun c => c.selector.toNat
  frcMin := 400#16
  frcMax := 2000#16
  cmdWordCrc := true

/-- After reset, with the reference configuration. -/
def base : State := { State.reset with cfg := ref }

/-- `base` in phase `p`. -/
def inPhase (p : Phase) : State := { base with phase := p }

/-- An idle block with `i` at the port. -/
def offered (i : Instr) : State := { base with requests := [encode i] }

/-- A block that runs the exchange of `i`, in phase `p`. -/
def running (i : Instr) (p : Phase) : State := { base with req := i.fields, phase := p }

/-- A transaction `e` was issued and `a` answers it now. -/
def answered (e : PortEvent) (a : Answer) (s : State) : State :=
  { s with trace := [e], outstanding := true, inputs := [answerTo 0 a] }

/-- A block in DECODE with `bytes` received. -/
def received (bytes : List Byte) : State := { base with phase := .decode, rxbuf := bytes, rxlen := bytes.length }

/-- A block in AWAIT whose Wait is answered. -/
def waited : State := answered (.wait 0) .done (inPhase .await)

/-- What a step ends with: the result or the error. -/
def outcome : Step → Option (Except ErrReg Result)
  | .next s => if s.resValid then s.res.map .ok else some (.error s.err)
  | .fault _ => none
  | .refused _ => none

/-- What a step leaves in `REQ_ARGS`. -/
def argsLeft : Step → Option (List Word)
  | .next s => some s.reqArgs
  | .fault _ => none
  | .refused _ => none

/-- What a step leaves in TXBUF, as TRANSMIT sends it. -/
def sent : Step → Option (List Byte)
  | .next s => (txRead s.txbuf 0 s.txlen).toOption
  | .fault _ => none
  | .refused _ => none

/-- The last port event after a step. -/
def lastEvent : Step → Option PortEvent
  | .next s => s.trace.getLast?
  | .fault _ => none
  | .refused _ => none

/-- The phase after a step. -/
def phaseOf : Step → Option Phase
  | .next s => some s.phase
  | .fault _ => none
  | .refused _ => none

/-- An ERR register. -/
def errs (code : Byte) (info : ErrInfo) : Option (Except ErrReg Result) := some (.error ⟨code, info⟩)

/-! ### Well-formedness -/

/-- 30_encoding.md R31: 18 bytes can be presented, 19 cannot. -/
theorem test_data_bound :
    (Instr.decU16 (List.replicate 18 0)).WellFormed ∧ ¬ (Instr.decU16 (List.replicate 19 0)).WellFormed ∧
    ¬ (Instr.decWords 6 (List.replicate 19 0)).WellFormed ∧ ¬ (Instr.deframe 0x17 (List.replicate 19 0)).WellFormed ∧
    ¬ Request.WellFormed ⟨0x06#56, List.replicate 19 0⟩ := by decide +kernel

/-- A request word has seven bytes. -/
theorem test_truncated : decodeBytes [0x01, 0x00, 0xEF, 0xBE, 0, 0] = .error (.truncated 6) := by decide +kernel

/-- 95_test_vectors.md FRM-62: a request with 21 data bytes runs; the extra word is verified too (log 18). -/
theorem test_long_data :
    outcome (step (offered (.deframe 0x17#8 [0x43, 0xCE, 0x7D, 0x40, 0x00, 0x08, 0x41, 0xBB, 0xA9, 0x33, 0x33, 0x88, 0x42, 0x34,
      0xD0, 0x00, 0x00, 0x81, 0x00, 0x00, 0x80]))) = errs 0x02#8 (.wordIndex 6) := by decide +kernel

/-! ### Decoding: words written out from R29 (`opsel` 7:0, `cmd` 15:8, `b` 23:16, `a` 55:24) and R30 -/

theorem test_decode_cke :
    decode ⟨0x0000BEEF000001#56, []⟩ = .ok (.crc8 0xBEEF#32) ∧
    decode ⟨0x0000BEEF920002#56, []⟩ = .ok (.verify 0xBEEF#32 0x92#8) ∧
    decode ⟨0xFFFFFFFFFFFF02#56, []⟩ = .ok (.verify 0xFFFFFFFF#32 0xFF#8) := by decide +kernel

theorem test_decode_wcd :
    decode ⟨0x000003E8000003#56, []⟩ = .ok (.encU16 1000#32) ∧
    decode ⟨0x12345678000004#56, []⟩ = .ok (.encU32 0x12345678#32) ∧
    decode ⟨0x43CE4000000005#56, []⟩ = .ok (.encF32 0x43CE4000#32) ∧
    decode ⟨0x00000000000006#56, [0x03, 0xE8, 0xD4]⟩ = .ok (.decU16 [0x03, 0xE8, 0xD4]) ∧
    decode ⟨0x00000000000007#56, [0x12, 0x34, 0x37]⟩ = .ok (.decU32 [0x12, 0x34, 0x37]) ∧
    decode ⟨0x00000000000008#56, [0x43, 0xCE, 0x7D]⟩ = .ok (.decF32 [0x43, 0xCE, 0x7D]) ∧
    decode ⟨0x00000000020009#56, [0xBE, 0xEF, 0x92]⟩ = .ok (.decWords 2#8 [0xBE, 0xEF, 0x92]) := by decide +kernel

theorem test_decode_frm :
    decode ⟨0x000003E8001A0A#56, []⟩ = .ok (.serialize 0x1A#8 1000#32) ∧
    decode ⟨0x00000000001B0B#56, [0x03, 0xE8, 0xD4]⟩ = .ok (.deframe 0x1B#8 [0x03, 0xE8, 0xD4]) := by decide +kernel

theorem test_decode_commands :
    decode ⟨0x00000000000010#56, []⟩ = .ok (.getFw 0) ∧ decode ⟨0x00000000000011#56, []⟩ = .ok (.softReset 0) ∧
    decode ⟨0x00000002000012#56, []⟩ = .ok (.startCont 2) ∧ decode ⟨0x00000000000013#56, []⟩ = .ok (.stopCont 0) ∧
    decode ⟨0x00000002000014#56, []⟩ = .ok (.setInterval 2) ∧ decode ⟨0x00000000000015#56, []⟩ = .ok (.getReady 0) ∧
    decode ⟨0x00000000000016#56, []⟩ = .ok .setReady ∧ decode ⟨0x00000000000017#56, []⟩ = .ok (.readMeas 0) ∧
    decode ⟨0x000001F4000018#56, []⟩ = .ok (.setToff 500) ∧ decode ⟨0x00000000000019#56, []⟩ = .ok (.getToff 0) ∧
    decode ⟨0x000003E800001A#56, []⟩ = .ok (.setAlt 1000) ∧ decode ⟨0x0000000000001B#56, []⟩ = .ok (.getAlt 0) ∧
    decode ⟨0x000003F500001C#56, []⟩ = .ok (.setPressure 1013) ∧ decode ⟨0x0000000100001D#56, []⟩ = .ok (.setAsc 1) ∧
    decode ⟨0x0000019000001E#56, []⟩ = .ok (.setFrc 400) := by decide +kernel

/-- 95_test_vectors.md RSV-1 to RSV-7, less RSV-4 (0x16 is SET_READY). -/
theorem test_decode_reserved :
    ∀ sel ∈ ([0x00, 0x0C, 0x0F, 0x1F, 0x80, 0xFF] : List Byte),
      (⟨sel, 0x1A#8, 1#8, 7#32, []⟩ : ReqFields).decode = .error (.reserved sel) := by decide +kernel

/-- The words of the opcode table as the host numbers them. -/
theorem test_table_words :
    decodeTableWord 8 0x01 = some (.crc8 0) ∧ decodeTableWord 56 0x0000BEEF920002 = some (.verify 0xBEEF#32 0x92#8) ∧
    decodeTableWord 8 0x1F = none := by decide +kernel

/-! ### Pure operations (95_test_vectors.md and the rules' corner cases) -/

theorem test_crc8 :
    outcome (exec (.crc8 0xBEEF#32) base) = some (.ok (.u8 0x92#8)) ∧
    outcome (exec (.crc8 0x10000#32) base) = errs 0x01#8 (.cause .width) := by decide +kernel

/-- 40_checksum.md R43: the register during CRC8(0xBEEF), after the first byte and at the end. -/
theorem test_crc_trace :
    [1, 2, 3, 4, 5, 6, 7, 8].map (fun n => crcShifts n (0xFF#8 ^^^ 0xBE#8)) =
      [0x82, 0x35, 0x6A, 0xD4, 0x99, 0x03, 0x06, 0x0C] ∧
    [1, 2, 3, 4, 5, 6, 7, 8].map (fun n => crcShifts n (0x0C#8 ^^^ 0xEF#8)) =
      [0xF7, 0xDF, 0x8F, 0x2F, 0x5E, 0xBC, 0x49, 0x92] := by decide +kernel

theorem test_verify :
    outcome (exec (.verify 0xBEEF#32 0x92#8) base) = some (.ok (.bool true)) ∧
    outcome (exec (.verify 0xBEEF#32 0x93#8) base) = some (.ok (.bool false)) := by decide +kernel

theorem test_encU16 :
    outcome (exec (.encU16 1000#32) base) = some (.ok (.bytes [0x03, 0xE8, 0xD4])) ∧
    outcome (exec (.encU16 0x10000#32) base) = errs 0x01#8 (.cause .width) := by decide +kernel

theorem test_encU32 :
    outcome (exec (.encU32 0x12345678#32) base) = some (.ok (.bytes [0x12, 0x34, 0x37, 0x56, 0x78, 0x7D])) := by
  decide +kernel

theorem test_encF32 :
    outcome (exec (.encF32 0x80000000#32) base) = some (.ok (.bytes [0x80, 0x00, 0xA2, 0x00, 0x00, 0x81])) := by
  decide +kernel

/-- R51, and the undetected 4-bit error of 95_test_vectors.md. -/
theorem test_decU16 :
    outcome (exec (.decU16 [0x3E, 0xEF, 0xB1]) base) = some (.ok (.u16 0x3EEF#16)) ∧
    outcome (exec (.decU16 []) base) = errs 0x04#8 (.wordCount 1 0) := by decide +kernel

theorem test_decU32 :
    outcome (exec (.decU32 [0x12, 0x34, 0x37, 0x56, 0x78, 0x7D]) base) = some (.ok (.u32 0x12345678#32)) ∧
    outcome (exec (.decU32 [0x03, 0xE8, 0xD4]) base) = errs 0x04#8 (.wordCount 2 3) := by decide +kernel

theorem test_decF32 :
    outcome (exec (.decF32 [0x41, 0xBB, 0xA9, 0x33, 0x33, 0x88]) base) = some (.ok (.b32 0x41BB3333#32)) ∧
    outcome (exec (.decF32 [0x41, 0xBB, 0xA9, 0x33, 0x33, 0x89]) base) = errs 0x02#8 (.wordIndex 1) := by decide +kernel

theorem test_decWords :
    outcome (exec (.decWords 2#8 [0xBE, 0xEF, 0x92, 0x00, 0x01, 0xB0]) base) =
      some (.ok (.words [0xBEEF#16, 0x0001#16])) ∧
    outcome (exec (.decWords 7#8 []) base) = errs 0x01#8 (.cause .width) := by decide +kernel

theorem test_serialize :
    outcome (exec (.serialize 0x1A#8 1000#32) base) = some (.ok (.bytes [0x51, 0x02, 0xF0, 0x03, 0xE8, 0xD4])) ∧
    outcome (exec (.serialize 0x1C#8 699#32) base) = errs 0x01#8 (.cause .pressureRange) := by decide +kernel

/-- 95_test_vectors.md NCW-1 and NCW-2: without a check byte after the command word. -/
theorem test_serialize_unchecked :
    outcome (exec (.serialize 0x10#8 0#32) { base with cfg := { ref with cmdWordCrc := false } }) =
      some (.ok (.bytes [0xD1, 0x00])) ∧
    outcome (exec (.serialize 0x1A#8 1000#32) { base with cfg := { ref with cmdWordCrc := false } }) =
      some (.ok (.bytes [0x51, 0x02, 0x03, 0xE8, 0xD4])) := by decide +kernel

theorem test_deframe :
    outcome (exec (.deframe 0x10#8 [0x03, 0x42, 0xF3]) base) = some (.ok (.fw 3#8 66#8)) ∧
    outcome (exec (.deframe 0x16#8 [0x03, 0x42, 0xF3]) base) = errs 0x05#8 (.selector 0x16#8) := by decide +kernel

/-- 95_test_vectors.md FRM-63: a partial last word is not verified. -/
theorem test_deframe_partial :
    outcome (exec (.deframe 0x17#8 [0x43, 0xCE, 0x7D, 0x40, 0x00, 0x08, 0x41, 0xBB, 0xA9, 0x33, 0x33, 0x88, 0x42, 0x34, 0xD0, 0x00])
      base) = errs 0x04#8 (.wordCount 6 16) := by decide +kernel

theorem test_setReady :
    outcome (step (offered .setReady)) = errs 0x05#8 (.selector 0x16#8) ∧
    lastEvent (step (offered .setReady)) = none := by decide +kernel

/-- 95_test_vectors.md P3: what the steps 6 and 7 leave in `CRCREG` and TXLEN. -/
theorem test_pure_leaves :
    (match exec (.serialize 0x1A#8 1000#32) base with | .next s => (s.crcreg, s.txlen) | _ => (0, 99)) = (0xD4#8, 0) ∧
    (match exec (.deframe 0x1B#8 [0x03, 0xE8, 0xD4]) base with | .next s => (s.crcreg, s.widx) | _ => (0, 99)) =
      (0xD4#8, 0) := by decide +kernel

/-! ### Catalog commands: one row of R75's table each (44_commands.md) -/

theorem test_getFw :
    outcome (exec (.getFw 0) (received [0x03, 0x42, 0xF3])) = some (.ok (.fw 3#8 66#8)) ∧
    sent (exec (.getFw 0) { inPhase .encode with reqArgs := [] }) = some [0xD1, 0x00, 0xB1] := by decide +kernel

theorem test_softReset :
    outcome (exec (.softReset 0) waited) = some (.ok .unit) ∧
    outcome (exec (.softReset 1) (inPhase .validate)) = errs 0x01#8 (.cause .width) := by decide +kernel

theorem test_startCont :
    argsLeft (exec (.startCont 1800) (inPhase .validate)) = some [1800#16] ∧
    outcome (exec (.startCont 1801) (inPhase .validate)) = errs 0x01#8 (.cause .intervalRange) := by decide +kernel

theorem test_stopCont :
    outcome (exec (.stopCont 0) waited) = some (.ok .unit) ∧
    sent (exec (.stopCont 0) { inPhase .encode with reqArgs := [] }) = some [0x01, 0x04, 0xB1] := by decide +kernel

theorem test_setInterval :
    sent (exec (.setInterval 1800) { inPhase .encode with reqArgs := [1800#16] }) =
      some [0x46, 0x00, 0x52, 0x07, 0x08, 0x96] ∧
    outcome (exec (.setInterval 1) (inPhase .validate)) = errs 0x01#8 (.cause .intervalRange) := by decide +kernel

theorem test_getReady :
    outcome (exec (.getReady 0) (received [0x00, 0x01, 0xB0])) = some (.ok (.u16 1#16)) ∧
    phaseOf (exec (.getReady 0) waited) = some .receive := by decide +kernel

/-- R94, and the corrupted check byte of word 3. -/
theorem test_readMeas :
    outcome (exec (.readMeas 0) (received [0x43, 0xCE, 0x7D, 0x40, 0x00, 0x08, 0x41, 0xBB, 0xA9, 0x33, 0x33, 0x88, 0x42, 0x34,
      0xD0, 0x00, 0x00, 0x81])) = some (.ok (.meas 0x43CE4000#32 0x41BB3333#32 0x42340000#32)) ∧
    outcome (exec (.readMeas 0) (received [0x43, 0xCE, 0x7D, 0x40, 0x00, 0x08, 0x41, 0xBB, 0xA9, 0x33, 0x33, 0x89, 0x42, 0x34,
      0xD0, 0x00, 0x00, 0x81])) = errs 0x02#8 (.wordIndex 3) := by decide +kernel

theorem test_readMeas_read :
    lastEvent (exec (.readMeas 0) (inPhase .receive)) = some (.read 0x61#7 18) := by decide +kernel

theorem test_setToff :
    argsLeft (exec (.setToff 65535) (inPhase .validate)) = some [0xFFFF#16] ∧
    outcome (exec (.setToff 65536) (inPhase .validate)) = errs 0x01#8 (.cause .width) := by decide +kernel

theorem test_getToff :
    outcome (exec (.getToff 0) (received [0x01, 0xF4, 0x33])) = some (.ok (.u16 500#16)) ∧
    sent (exec (.getToff 0) { inPhase .encode with reqArgs := [] }) = some [0x54, 0x03, 0xB6] := by decide +kernel

theorem test_setAlt :
    sent (exec (.setAlt 1000) { inPhase .encode with reqArgs := [1000#16] }) =
      some [0x51, 0x02, 0xF0, 0x03, 0xE8, 0xD4] ∧
    outcome (exec (.setAlt 1000) (answered (.write 0 []) (.fail someKind) (inPhase .transmit))) =
      errs 0x03#8 (.kind someKind) := by
  decide +kernel

theorem test_getAlt :
    outcome (exec (.getAlt 0) (received [0x03, 0xE8, 0xD4])) = some (.ok (.u16 1000#16)) ∧
    outcome (exec (.getAlt 0) (received [0x03, 0xE8, 0xD4, 0x00, 0x00, 0x81])) = errs 0x04#8 (.wordCount 1 6) := by
  decide +kernel

/-- R99, and the width check before the range check (95_test_vectors.md). -/
theorem test_setPressure :
    argsLeft (exec (.setPressure 0) (inPhase .validate)) = some [0#16] ∧
    outcome (exec (.setPressure 0x10000) (inPhase .validate)) = errs 0x01#8 (.cause .width) := by decide +kernel

theorem test_setAsc :
    argsLeft (exec (.setAsc 1) (inPhase .validate)) = some [1#16] ∧
    outcome (exec (.setAsc 2) (inPhase .validate)) = errs 0x01#8 (.cause .width) := by decide +kernel

theorem test_setFrc :
    argsLeft (exec (.setFrc 400) (inPhase .validate)) = some [400#16] ∧
    outcome (exec (.setFrc 2001) (inPhase .validate)) = errs 0x01#8 (.cause .frcRange) := by decide +kernel

/-! ### The step -/

/-- 95_test_vectors.md P4, steps 2 and 3: reset, and the old answer afterwards. -/
theorem test_late_answer :
    phaseOf (step { running (.softReset 0) .await with outstanding := true, inputs := [⟨true, none⟩] }) = some .idle ∧
    phaseOf (step { base with trace := [.write 0x61 [], .wait 17], inputs := [answerTo 1 .done] }) = some .idle := by
  decide +kernel

/-- 10_state.md R15: acceptance clears RES and RES_VALID, and an operation that then raises writes no result. -/
theorem test_acceptance_clears_result :
    ∃ t, step { inPhase .done with res := some .unit, resValid := true, requests := [encode (.crc8 0x10000)] } = .next t ∧
      t.res = none ∧ t.resValid = false :=
  ⟨_, rfl, rfl, rfl⟩

/-- Placing a word makes the very next step run it, from a busy block too. -/
theorem test_withFetchWord :
    outcome (step (State.reset.withFetchWord 56 0x0000BEEF000001)) = some (.ok (.u8 0x92#8)) ∧
    phaseOf (step (State.reset.withFetchWord 8 0x1B)) = some .validate ∧
    outcome (step ((running (.getFw 0) .await).withFetchWord 56 0x0000BEEF000001)) = some (.ok (.u8 0x92#8)) := by
  decide +kernel

/-! ### Witnesses: for every statement with hypotheses, states and operands that meet them together -/

/-- A block whose reset input is asserted now, in the middle of an exchange, with CRC8 waiting at the port. -/
def resetting : State :=
  { running (.softReset 0) .await with outstanding := true, inputs := [⟨true, none⟩], requests := [encode (.crc8 5)] }

/-- A block in ENCODE with the validated argument 1000. -/
def encoding : State := { running (.setAlt 1000) .encode with reqArgs := [1000#16] }

/-- A block in TRANSMIT with the frame of SET_ALT 1000 in TXBUF, about to issue the BusWrite. -/
def transmitting : State :=
  { running (.setAlt 1000) .transmit with
    reqArgs := [1000#16], txbuf := [(0, 0x51), (1, 0x02), (2, 0xF0), (3, 0x03), (4, 0xE8), (5, 0xD4)], txlen := 6 }

theorem witness_ResetStep :
    resetAsserted resetting = true ∧
    (∃ t, step resetting = .next t ∧ t.requests = [encode (.crc8 5)] ∧ decode (encode (.crc8 5)) = .ok (.crc8 5) ∧
      resetAsserted t = false) ∧
    ∃ t, exec (.softReset 0) base = .next t :=
  ⟨rfl, ⟨_, rfl, rfl, rfl, rfl⟩, ⟨_, rfl⟩⟩

theorem witness_LateAnswersDiscarded :
    (∃ s : State, ∃ i : Input, s.inputs = [i, ⟨false, some (1, .done)⟩] ∧ i.reset = true ∧ s.requests = []) ∧
    (∃ s : State, (currentInput s).answer = some (1, .done) ∧ s.outstanding = false) ∧
    (∃ s : State, (currentInput s).answer = some (1, .done) ∧ s.outstanding = true ∧ 1 + 1 < s.trace.length) :=
  ⟨⟨{ base with inputs := [⟨true, none⟩, answerTo 1 .done] }, ⟨true, none⟩, rfl, rfl, rfl⟩,
    ⟨{ base with inputs := [answerTo 1 .done] }, rfl, rfl⟩,
    ⟨{ base with inputs := [answerTo 1 .done], outstanding := true, trace := [.write 0 [], .wait 1, .write 0 []] },
      rfl, rfl, by decide⟩⟩

theorem witness_OutputsFromPhase : ∃ s t : State, s.phase = t.phase ∧ s ≠ t :=
  ⟨inPhase .done, { inPhase .done with widx := 3 }, rfl, fun h => absurd (congrArg State.widx h) (by decide)⟩

/-- Both cases, at the ends of the reserved ranges. -/
theorem witness_EverySelectorDecodes :
    (∀ sel ∈ ([0x00, 0x0C, 0x0F, 0x1F, 0xFF] : List Byte), reservedSelector sel) ∧
    (∀ sel ∈ ([0x01, 0x0B, 0x10, 0x16, 0x1E] : List Byte), ¬ reservedSelector sel) ∧
    Request.WellFormed ⟨0x06#56, List.replicate 18 0⟩ := by
  unfold reservedSelector
  decide +kernel

/-- Every end of the reserved ranges, and 0x16, at the port of a block in DONE. -/
theorem witness_ReservedSelectorsRefused :
    ∀ sel ∈ ([0x00, 0x0C, 0x0F, 0x16, 0x1F, 0xFF] : List Byte),
      ∃ s r, reqReady s = true ∧ resetAsserted s = false ∧ s.requests = [r] ∧
        (reservedSelector r.fields.opsel ∨ r.fields.opsel = 0x16#8) ∧ r.fields.opsel = sel := by
  intro sel h
  refine ⟨{ inPhase .done with requests := [(⟨sel, 0, 0, 0, []⟩ : ReqFields).request] }, _, rfl, rfl, rfl, ?_, ?_⟩
  · rw [ReqFields.request_fields]
    unfold reservedSelector
    revert h
    revert sel
    decide +kernel
  · rw [ReqFields.request_fields]

theorem witness_SetReadyRefused :
    (⟨0x00000700030116#56, [1]⟩ : Request).word.extractLsb' 0 8 = 0x16#8 ∧
    Presents (offered .setReady) .setReady [] ∧ resetAsserted (offered .setReady) = false :=
  ⟨by decide, ⟨rfl, _, rfl, rfl⟩, rfl⟩

theorem witness_RequestHandshake :
    (∃ s r, reqReady s = true ∧ resetAsserted s = false ∧ s.requests = [r] ∧ reservedSelector r.fields.opsel) ∧
    (∃ s r i, reqReady s = true ∧ resetAsserted s = false ∧ s.requests = [r] ∧ decode r = .ok i ∧ i.isPure = true) ∧
    (∃ s r c a, reqReady s = true ∧ resetAsserted s = false ∧ s.requests = [r] ∧ decode r = .ok (Command.toInstr c a)) ∧
    (∃ s t, busy s = true ∧ resetAsserted s = false ∧ step s = .next t ∧ s.requests = [encode (.crc8 5)]) :=
  ⟨⟨{ base with requests := [⟨0, []⟩] }, _, rfl, rfl, rfl, .inl rfl⟩,
    ⟨offered (.crc8 5), _, _, rfl, rfl, rfl, rfl, rfl⟩,
    ⟨offered (.getFw 0), _, .getFw, 0, rfl, rfl, rfl, rfl⟩,
    ⟨{ running (.getFw 0) .validate with requests := [encode (.crc8 5)] }, _, rfl, rfl, rfl, rfl⟩⟩

theorem witness_StepRunsDecoded :
    (∃ s r rest i, reqReady s = true ∧ resetAsserted s = false ∧ s.requests = r :: rest ∧ decode r = .ok i) ∧
    (∃ s i, busy s = true ∧ resetAsserted s = false ∧ s.req.decode = .ok i) :=
  ⟨⟨offered (.crc8 5), _, _, _, rfl, rfl, rfl, rfl⟩, ⟨running (.getFw 0) .await, _, rfl, rfl, rfl⟩⟩

/-- A failing word at the first and at the last index; no failing word in a whole, an empty and a broken list. -/
theorem witness_DecWordsByIndex :
    (0 < [0x00, 0x00, (0x80 : Byte)].length / 3 ∧ badAt [0x00, 0x00, 0x80] 0) ∧
    (1 < [0x00, 0x00, 0x81, 0x00, 0x01, (0xB1 : Byte)].length / 3 ∧ badAt [0x00, 0x00, 0x81, 0x00, 0x01, 0xB1] 1 ∧
      ∀ j, j < 1 → ¬ badAt [0x00, 0x00, 0x81, 0x00, 0x01, 0xB1] j) ∧
    (∀ k, k < [0xBE, 0xEF, 0x92, 0x00, 0x01, (0xB0 : Byte)].length / 3 → ¬ badAt [0xBE, 0xEF, 0x92, 0x00, 0x01, 0xB0] k) ∧
    (∀ k, k < ([] : List Byte).length / 3 → ¬ badAt [] k) ∧
    (∀ k, k < [0x00, 0x00, 0x81, (0x00 : Byte)].length / 3 → ¬ badAt [0x00, 0x00, 0x81, 0x00] k) := by
  unfold badAt wordAt
  decide +kernel

theorem witness_CodecRoundTrips :
    (∃ t, exec (.decU16 [0x03, 0xE8, 0xD4]) base = .next t ∧ t.resValid = true ∧ t.res = some (.u16 1000#16)) ∧
    (∃ t, exec (.decU32 [0x12, 0x34, 0x37, 0x56, 0x78, 0x7D]) base = .next t ∧ t.resValid = true ∧
      t.res = some (.u32 0x12345678#32)) ∧
    (∃ t, exec (.decF32 [0x41, 0xBB, 0xA9, 0x33, 0x33, 0x88]) base = .next t ∧ t.resValid = true ∧
      t.res = some (.b32 0x41BB3333#32)) :=
  ⟨⟨_, rfl, by decide +kernel, by decide +kernel⟩, ⟨_, rfl, by decide +kernel, by decide +kernel⟩,
    ⟨_, rfl, by decide +kernel, by decide +kernel⟩⟩

/-- The first and the last word of a frame. -/
theorem witness_CorruptedCheckByteNamed :
    ([0xBEEF#16, 0x0001#16] : List Word)[0]? = some 0xBEEF#16 ∧ (0x93 : Byte) ≠ crc8Word 0xBEEF#16 ∧
    ([0xBEEF#16, 0x0001#16] : List Word)[1]? = some 0x0001#16 ∧ (0x00 : Byte) ≠ crc8Word 0x0001#16 := by decide +kernel

/-- A decode with each of the four outcomes that CodecOutcomes names. -/
theorem witness_CodecOutcomes :
    outcome (exec (.decU16 [0x00, 0x00, 0x81]) base) = some (.ok (.u16 0#16)) ∧
    outcome (exec (.decU32 [0x00, 0x00, 0x80]) base) = errs 0x02#8 (.wordIndex 0) ∧
    outcome (exec (.decF32 []) base) = errs 0x04#8 (.wordCount 2 0) ∧
    outcome (exec (.decWords 7 []) base) = errs 0x01#8 (.cause .width) := by decide +kernel

theorem witness_ValidationBeforeBus :
    ((inPhase .validate).phase = .validate ∧ argsOf ref .setPressure 1500#32 = .error .pressureRange) ∧
    (Presents (offered (.setPressure 1500)) (Command.toInstr .setPressure 1500#32) [] ∧
      ∀ i ∈ (offered (.setPressure 1500)).inputs, i.reset = false) :=
  ⟨⟨rfl, rfl⟩, ⟨rfl, _, rfl, rfl⟩, by simp [offered, base, State.reset]⟩

theorem witness_DecodeResultRule : Command.setFrc ∈
    [Command.softReset, .startCont, .stopCont, .setInterval, .setToff, .setAlt, .setPressure, .setAsc, .setFrc] := by decide

theorem witness_RequestFrames :
    ref.cmdWordCrc = true ∧ ({ ref with cmdWordCrc := false } : Config).cmdWordCrc = false ∧
    validate ref .setAlt 1000#32 = .ok [1000#16] ∧ validate ref .getAlt 0#32 = .ok [] := ⟨rfl, rfl, rfl, rfl⟩

theorem witness_CatalogExamples : Reference ref := ⟨rfl, rfl⟩

theorem witness_SerializeOperation : Reference ref := ⟨rfl, rfl⟩

theorem witness_SerializeMatchesTransmit :
    ∃ t u : State, exec (.serialize (Command.selector .setAlt) 1000#32) base = .next t ∧ t.resValid = true ∧
      t.res = some (.bytes [0x51, 0x02, 0xF0, 0x03, 0xE8, 0xD4]) ∧ u.cfg = base.cfg ∧ u.phase = .validate :=
  ⟨_, inPhase .validate, rfl, by decide +kernel, by decide +kernel, rfl, rfl⟩

theorem witness_PureOperationsFrame :
    (Instr.deframe 0x10 []).isPure = true ∧ Instr.setReady = .setReady ∧ (Instr.crc8 5).isPure = true ∧
    (∃ t, exec (.crc8 5) base = .next t ∧ t.resValid = true) ∧ (∃ t, exec (.crc8 0x10000) base = .next t ∧ t.resValid = false) ∧
    ∀ bytes n, Instr.crc8 5 ≠ .decU16 bytes ∧ Instr.crc8 5 ≠ .decU32 bytes ∧ Instr.crc8 5 ≠ .decF32 bytes ∧
      Instr.crc8 5 ≠ .decWords n bytes ∧ Instr.crc8 5 ≠ .deframe n bytes :=
  ⟨rfl, rfl, rfl, ⟨_, rfl, by decide +kernel⟩, ⟨_, rfl, by decide +kernel⟩,
    fun _ _ => ⟨nofun, nofun, nofun, nofun, nofun⟩⟩

theorem witness_PureOutcomeIgnoresState :
    ∃ s s' t t' : State, (Instr.decU16 [0x03, 0xE8, 0xD4]).isPure = true ∧ s.cfg = s'.cfg ∧ s ≠ s' ∧
      exec (.decU16 [0x03, 0xE8, 0xD4]) s = .next t ∧ exec (.decU16 [0x03, 0xE8, 0xD4]) s' = .next t' ∧ t.resValid = true :=
  ⟨base, transmitting, _, _, rfl, rfl, fun h => absurd (congrArg State.txlen h) (by decide), rfl, rfl, by decide +kernel⟩

/-- One state for each row of the table. -/
theorem witness_SequencerRows :
    ((inPhase .validate).phase = .validate ∧ validate ref .setPressure 699#32 = .error (.validation .pressureRange)) ∧
    validate ref .setPressure 700#32 = .ok [700#16] ∧
    (encoding.phase = .encode ∧ encoding.reqArgs = [1000#16] ∧ [1000#16].length ≤ 1) ∧
    (transmitting.phase = .transmit ∧ transmitting.outstanding = false ∧
      txRead transmitting.txbuf 0 transmitting.txlen = .ok [0x51, 0x02, 0xF0, 0x03, 0xE8, 0xD4]) ∧
    answer (answered (.write 0 []) (.fail someKind) (inPhase .transmit)) = some (.fail someKind) ∧
    answer (answered (.write 0 []) .writeOk (inPhase .transmit)) = some .writeOk ∧
    ((inPhase .await).phase = .await ∧ (inPhase .await).outstanding = false) ∧
    (waited.phase = .await ∧ waited.outstanding = true ∧ answer waited = some .done) ∧
    (respWords .setAlt = 0 ∧ 0 < respWords .getAlt) ∧
    ((inPhase .receive).phase = .receive ∧ (inPhase .receive).outstanding = false) ∧
    answer (answered (.read 0 3) (.fail someKind) (inPhase .receive)) = some (.fail someKind) ∧
    answer (answered (.read 0 3) (.readOk [1]) (inPhase .receive)) = some (.readOk [1]) ∧
    (received [0x03, 0xE8, 0xD4]).phase = .decode := by decide +kernel

/-- Every phase is left as the statement says somewhere. -/
theorem witness_PhaseTransitions :
    (∃ t, exec (.getAlt 0) waited = .next t ∧ waited.phase = .await ∧ t.phase = .receive) ∧
    (∃ t, exec (.getAlt 0) (answered (.write 0 []) .writeOk (inPhase .transmit)) = .next t ∧ t.phase = .await) ∧
    (∃ t, exec (.getAlt 0) (answered (.read 0 3) (.readOk [1]) (inPhase .receive)) = .next t ∧ t.phase = .decode) :=
  ⟨⟨_, rfl, rfl, rfl⟩, ⟨_, rfl, rfl⟩, ⟨_, rfl, rfl⟩⟩

/-- The storing form, and a form that stores nothing; an event of each kind. -/
theorem witness_CatalogFrame :
    (∃ t, exec (Command.toInstr .setAlt 1000) encoding = .next t ∧ encoding.phase = .encode ∧
      encoding.reqArgs = [1000#16]) ∧
    (∃ t, exec (Command.toInstr .setAlt 1000) transmitting = .next t ∧ t.trace ≠ transmitting.trace) ∧
    (∃ t, exec (Command.toInstr .setAlt 1000) (inPhase .await) = .next t ∧ t.trace ≠ (inPhase .await).trace) ∧
    (∃ t, exec (Command.toInstr .getAlt 0) (inPhase .receive) = .next t ∧ t.trace ≠ (inPhase .receive).trace) :=
  ⟨⟨_, rfl, rfl, rfl⟩, ⟨_, rfl, by decide⟩, ⟨_, rfl, by decide⟩, ⟨_, rfl, by decide⟩⟩

theorem witness_ExchangeRefinesFunction :
    ∃ n t, Presents (offered (.setAlt 65536)) (Command.toInstr .setAlt 65536#32) [] ∧
      (∀ i ∈ (offered (.setAlt 65536)).inputs, i.reset = false) ∧ Runs n (offered (.setAlt 65536)) t ∧ t.requests = [] ∧
      t.phase = .done :=
  ⟨2, _, ⟨rfl, _, rfl, rfl⟩, by simp [offered, base, State.reset], rfl, rfl, rfl⟩

theorem witness_UnansweredBlockWaits :
    ∃ s : State, s.req.decode = .ok (Command.toInstr .getAlt s.req.a) ∧ s.phase = .receive ∧
      s.outstanding = true ∧ ∀ i ∈ s.inputs, i.reset = false ∧ i.answer = none :=
  ⟨{ running (.getAlt 0) .receive with outstanding := true, inputs := [quiet] }, rfl, rfl, rfl, by simp [quiet]⟩

theorem witness_OutcomeHeld :
    (∃ s : State, s.phase = .done ∧ s.outstanding = false ∧ s.requests = [] ∧ ∀ i ∈ s.inputs, i.reset = false) ∧
    (∃ s : State, s.phase = .done ∧ s.outstanding = false ∧ Presents s (Command.toInstr .getAlt 0) [] ∧
      resetAsserted s = false) :=
  ⟨⟨{ inPhase .done with inputs := [answerTo 0 .done] }, rfl, rfl, rfl, by simp [answerTo]⟩,
    ⟨{ inPhase .done with requests := [encode (.getAlt 0)] }, rfl, rfl, ⟨rfl, _, rfl, rfl⟩, rfl⟩⟩

/-- The hypotheses of `RunsAs`, for every command, with the operand 0 and a failing read; a second exchange follows. -/
theorem witness_RunsAs (c : Command) :
    ∃ s : State, Presents s (c.toInstr 0) [encode (.crc8 5)] ∧
      s.inputs = schedule s.trace.length (.ok ()) (.error someKind) 2 0 1 ++ [quiet] := by
  refine ⟨{ base with
    requests := [encode (c.toInstr 0), encode (.crc8 5)]
    inputs := schedule 0 (.ok ()) (.error someKind) 2 0 1 ++ [quiet] }, ⟨rfl, _, rfl, ?_⟩, rfl⟩
  cases c <;> rfl

/-- The hypotheses of `ReturnsUnit`: the Wait is answered. -/
theorem witness_ReturnsUnit : waited.phase = .await ∧ waited.outstanding = true ∧ answer waited = some .done :=
  ⟨rfl, rfl, rfl⟩

/-- The hypotheses of `ReturnsTyped`, for one word and for six. -/
theorem witness_ReturnsTyped :
    ((received [0x03, 0xE8, 0xD4]).phase = .decode ∧ decWords (received [0x03, 0xE8, 0xD4]).rxbuf 1 = .ok [1000#16]) ∧
    decWords (received [0x43, 0xCE, 0x7D, 0x40, 0x00, 0x08, 0x41, 0xBB, 0xA9, 0x33, 0x33, 0x88, 0x42, 0x34, 0xD0, 0x00, 0x00,
      0x81]).rxbuf 6 = .ok [0x43CE#16, 0x4000#16, 0x41BB#16, 0x3333#16, 0x4234#16, 0x0000#16] := by decide +kernel

theorem witness_GetFwExchange :
    Presents (offered (.getFw 0)) (.getFw 0) [] ∧ (received [0x03, 0x42, 0xF3]).phase = .decode ∧
    decWords (received [0x03, 0x42, 0xF3]).rxbuf 1 = .ok [0x0342#16] :=
  ⟨⟨rfl, _, rfl, rfl⟩, rfl, by decide +kernel⟩

theorem witness_GetWordExchanges :
    Presents (offered (.getReady 0)) (.getReady 0) [] ∧ Presents (offered (.getToff 0)) (.getToff 0) [] ∧
    Presents (offered (.getAlt 0)) (.getAlt 0) [] ∧ decWords (received [0x01, 0xF4, 0x33]).rxbuf 1 = .ok [500#16] :=
  ⟨⟨rfl, _, rfl, rfl⟩, ⟨rfl, _, rfl, rfl⟩, ⟨rfl, _, rfl, rfl⟩, by decide +kernel⟩

theorem witness_ReadMeasExchange : Presents (offered (.readMeas 0)) (.readMeas 0) [] := ⟨rfl, _, rfl, rfl⟩

theorem witness_PlainCommandExchanges :
    Presents (offered (.softReset 0)) (.softReset 0) [] ∧ Presents (offered (.stopCont 0)) (.stopCont 0) [] ∧
    ∃ t, exec (.softReset 0) waited = .next t := ⟨⟨rfl, _, rfl, rfl⟩, ⟨rfl, _, rfl, rfl⟩, _, rfl⟩

theorem witness_IntervalExchanges :
    Presents (offered (.startCont 2)) (.startCont 2) [] ∧ Presents (offered (.setInterval 1800)) (.setInterval 1800) [] :=
  ⟨⟨rfl, _, rfl, rfl⟩, ⟨rfl, _, rfl, rfl⟩⟩

theorem witness_UnrestrictedSetExchanges :
    Presents (offered (.setToff 65535)) (.setToff 65535) [] ∧ Presents (offered (.setAlt 0)) (.setAlt 0) [] :=
  ⟨⟨rfl, _, rfl, rfl⟩, ⟨rfl, _, rfl, rfl⟩⟩

theorem witness_PressureExchange :
    Presents (offered (.setPressure 1400)) (.setPressure 1400) [] ∧
    Presents (offered (.setPressure 1401)) (.setPressure 1401) [] := ⟨⟨rfl, _, rfl, rfl⟩, ⟨rfl, _, rfl, rfl⟩⟩

theorem witness_SelfCalibrationExchange :
    Presents (offered (.setAsc 1)) (.setAsc 1) [] ∧ Presents (offered (.setAsc 2)) (.setAsc 2) [] :=
  ⟨⟨rfl, _, rfl, rfl⟩, ⟨rfl, _, rfl, rfl⟩⟩

theorem witness_RecalibrationExchange :
    Presents (offered (.setFrc 400)) (.setFrc 400) [] ∧ Presents (offered (.setFrc 399)) (.setFrc 399) [] :=
  ⟨⟨rfl, _, rfl, rfl⟩, ⟨rfl, _, rfl, rfl⟩⟩

/-- An error raised by a pure operation, and one raised in the middle of an exchange. -/
theorem witness_ErrorEntry :
    (∃ t u, exec (.crc8 0x10000) base = .next t ∧ base.err = ⟨0x00#8, .none⟩ ∧ t.err ≠ ⟨0x00#8, .none⟩ ∧ t.requests = [] ∧
      resetAsserted t = false ∧ step t = .next u) ∧
    (∃ t, exec (.getAlt 0) (answered (.read 0 3) (.fail someKind) (inPhase .receive)) = .next t ∧ t.err ≠ ⟨0x00#8, .none⟩) :=
  ⟨⟨_, _, rfl, rfl, by decide, rfl, rfl, rfl⟩, ⟨_, rfl, by decide⟩⟩

/-- One instance of each item of the order. -/
theorem witness_ErrorPriority :
    (∃ s r, reqReady s = true ∧ resetAsserted s = false ∧ s.requests = [r] ∧ reservedSelector r.fields.opsel) ∧
    ((0x0F : Byte) < 0x10#8 ∧ (0x1E : Byte) < 0x1F#8) ∧ 65536 ≤ (0x10000#32).toNat ∧ 6 < (7 : Byte).toNat ∧
    validate ref .setPressure 699#32 = .error (.validation .pressureRange) ∧ validate ref .getAlt 0#32 = .ok [] ∧
    (∃ s : State, s.phase = .await ∧ answer s = some (.fail someKind)) ∧ 0 < respWords .getAlt ∧
    (0 < [0x00, 0x00, (0x80 : Byte)].length / 3 ∧ crc8Word (wordAt [0x00, 0x00, 0x80] 0) ≠ 0x80#8) ∧
    (∀ k, k < ([] : List Byte).length / 3 → ¬ badAt [] k) ∧ ([] : List Byte).length ≠ 3 * respWords .getAlt :=
  ⟨⟨{ base with requests := [⟨0, []⟩] }, _, rfl, rfl, rfl, .inl rfl⟩, by decide, by decide, by decide, rfl, rfl,
    ⟨answered (.wait 0) (.fail someKind) (inPhase .await), rfl, rfl⟩, by decide, by decide +kernel,
    fun k h => absurd h (by simp), by decide⟩

/-- The invariant in the middle of an exchange: SET_ALT 1000, its Wait issued. -/
def awaiting : State :=
  { transmitting with
    phase := .await, outstanding := true
    trace := [.write 0x61 [0x51, 0x02, 0xF0, 0x03, 0xE8, 0xD4], .wait 0x1A], inputs := [answerTo 1 .done] }

theorem witness_InvariantKept : Invariant awaiting ∧ ∃ t, step awaiting = .next t := by
  refine ⟨⟨?_, ⟨rfl, rfl, rfl⟩, ?_⟩, ⟨_, rfl⟩⟩
  · exact ⟨by decide, by decide, by decide, by decide, rfl, Nat.le_refl 1⟩
  · exact ⟨.setAlt, rfl, rfl, [], by decide +kernel⟩

theorem witness_NoStepStops : Invariant awaiting := witness_InvariantKept.1

theorem witness_PortOrderKept : Invariant awaiting ∧ TraceOrdered awaiting ∧ ∃ t, step awaiting = .next t :=
  ⟨witness_InvariantKept.1, rfl, witness_InvariantKept.2⟩

/-- Two blocks in DONE with an error, that differ in everything an earlier operation left. -/
theorem witness_StatelessBetweenOperations :
    ∃ s t s' : State, Alike s t ∧ s ≠ t ∧ step s = .next s' := by
  refine ⟨{ inPhase .done with requests := [encode (.getAlt 0)] },
    { transmitting with phase := .done, crcreg := 1, widx := 9, rxbuf := [1], res := some .unit, requests := [encode (.getAlt 0)] },
    _, ?_, fun h => absurd (congrArg State.widx h) (by decide), rfl⟩
  exact ⟨rfl, rfl, rfl, rfl, rfl, rfl, rfl, rfl, nofun, nofun, nofun, nofun, nofun⟩

theorem witness_ConfigAndTraceKept : ∃ t, step transmitting = .next t ∧ t.trace ≠ transmitting.trace :=
  ⟨_, rfl, by decide⟩

theorem witness_StrayAnswersIgnored :
    ∃ s : State, ∃ i : Input, ∃ rest, s.outstanding = false ∧ s.inputs = i :: rest ∧ i.answer = some (0, .done) :=
  ⟨{ base with inputs := [answerTo 0 .done] }, _, _, rfl, rfl, rfl⟩

end Sys2Proof.Tests
end

section
/-! The state family (10_state.md): first what a run operation does, said once, then the statements. -/

namespace Sys2Proof.Proofs

open Sys2Proof.Machine Sys2Proof.Safety Sys2Proof.Stmt

/-! ### Ready, and writing TXBUF -/

theorem reqReady_iff {s : State} : reqReady s = true ↔ s.phase = .idle ∨ s.phase = .done := by
  simp [reqReady]

theorem phase_ne_done_of_busy {s : State} (hbusy : reqReady s = false) : s.phase ≠ .done := by
  rintro hphase
  simp [reqReady, hphase] at hbusy

theorem txWrite_eq_ok {m m' : Memory} {i : Nat} {bs : List Byte} :
    txWrite m i bs = .ok m' ↔ i + bs.length ≤ Config.txCapacity ∧ m' = Memory.writeList m i bs := by
  unfold txWrite
  split
  case isTrue hfits => simp [hfits, eq_comm]
  case isFalse hfits => simp [hfits]

/-! ### What a pure operation does -/

/-- The outcome of a pure operation, or SET_READY, as a function of its operands and the configuration
(40_checksum.md R44, 41_word_codec.md R55, 42_command_catalog.md R71, R72). -/
def pureOutcome (cfg : Config) : Instr → Except Error Result
  | .crc8 a => (operandU16 a).map fun w => .u8 (crc8Word w)
  | .verify a b => (operandU16 a).map fun w => .bool (crc8Word w == b)
  | .encU16 a => (operandU16 a).map fun w => .bytes (wire w)
  | .encU32 a => .ok (.bytes (wire32 a))
  | .encF32 a => .ok (.bytes (wire32 a))
  | .decU16 data => (decWords data 1).map fun ws => .u16 (nthWord ws 0)
  | .decU32 data => (decWords data 2).map fun ws => .u32 (joinWords (nthWord ws 0) (nthWord ws 1))
  | .decF32 data => (decWords data 2).map fun ws => .b32 (joinWords (nthWord ws 0) (nthWord ws 1))
  | .decWords b data => (operandCount b).bind fun n => (decWords data n).map .words
  | .serialize cmd a => (operandCommand cmd).bind fun c => (validate cfg c a).map fun args => .bytes (frame cfg c args)
  | .deframe cmd data => (operandCommand cmd).bind fun c => deframe c data
  | _ => .error (.unsupported 0x16#8)

/-- The operations whose request carries a byte list, which acceptance loads into RXBUF (10_state.md R14). -/
def carriesData : Instr → Bool
  | .decU16 _ => true
  | .decU32 _ => true
  | .decF32 _ => true
  | .decWords _ _ => true
  | .deframe _ _ => true
  | _ => false

/-- `u` is `s` but for the registers operation `i` may work in: `CRCREG`, and for one that carries data also `WIDX` and
RXBUF, which then holds that data. -/
def WorkedOn (i : Instr) (s u : State) : Prop :=
  ∃ crc widx rx len, u = scratch crc widx rx len s ∧
    if carriesData i then rx = i.dataBytes ∧ len = rx.length else rx = s.rxbuf ∧ len = s.rxlen ∧ widx = s.widx

/-- Every pure operation, and SET_READY, ends in one step with its outcome (10_state.md R10). -/
theorem exec_pure {i : Instr} (hi : i.isPure = true ∨ i = .setReady) (s : State) :
    ∃ u, WorkedOn i s u ∧ exec i s = .next (finish (pureOutcome s.cfg i) u) := by
  have crcOnly (c : Byte) {j : Instr} (hj : carriesData j = false) : WorkedOn j s { s with crcreg := c } :=
    ⟨c, s.widx, s.rxbuf, s.rxlen, rfl, by simp [hj]⟩
  have loaded {j : Instr} (hj : carriesData j = true) : WorkedOn j s (loadRx j.dataBytes s) :=
    ⟨s.crcreg, s.widx, j.dataBytes, j.dataBytes.length, rfl, by simp [hj]⟩
  have verified {j : Instr} (hj : carriesData j = true) : WorkedOn j s (afterVerify j.dataBytes (loadRx j.dataBytes s)) :=
    ⟨_, _, j.dataBytes, j.dataBytes.length, rfl, by simp [hj]⟩
  have onWord {j : Instr} (hj : carriesData j = false) (a : DWord) (f : Word → Result) :
      ∃ u, WorkedOn j s u ∧ (match operandU16 a with
        | .error e => (.next (raise e s) : Step)
        | .ok w => .next (ret (f w) (crcPass w s))) = .next (finish ((operandU16 a).map f) u) := by
    cases operandU16 a with
    | error e => exact ⟨_, crcOnly s.crcreg hj, rfl⟩
    | ok w => exact ⟨_, crcOnly (crc8Word w) hj, rfl⟩
  cases i
  case crc8 a => exact onWord rfl a fun w => .u8 (crc8Word w)
  case verify a b => exact onWord rfl a fun w => .bool (crc8Word w == b)
  case encU16 a => exact onWord rfl a fun w => .bytes (wire w)
  case encU32 a => exact ⟨_, crcOnly (crcAfter [hiWord a, loWord a] s.crcreg) rfl, rfl⟩
  case encF32 a => exact ⟨_, crcOnly (crcAfter [hiWord a, loWord a] s.crcreg) rfl, rfl⟩
  case decU16 data => exact ⟨_, verified rfl, rfl⟩
  case decU32 data => exact ⟨_, verified rfl, rfl⟩
  case decF32 data => exact ⟨_, verified rfl, rfl⟩
  case decWords b data =>
    simp only [exec, execDecWords, pureOutcome]
    cases operandCount b with
    | error e => exact ⟨_, loaded rfl, rfl⟩
    | ok n => exact ⟨_, verified rfl, rfl⟩
  case serialize cmd a =>
    simp only [exec, execSerialize, pureOutcome]
    cases operandCommand cmd with
    | error e => exact ⟨_, crcOnly s.crcreg rfl, rfl⟩
    | ok c =>
      simp only [Except.bind]
      cases validate s.cfg c a with
      | error e => exact ⟨_, crcOnly s.crcreg rfl, rfl⟩
      | ok args => exact ⟨_, crcOnly (crcAfter (frameWords s.cfg c args) s.crcreg) rfl, rfl⟩
  case deframe cmd data =>
    simp only [exec, execDeframe, pureOutcome]
    cases operandCommand cmd with
    | error e => exact ⟨_, loaded rfl, rfl⟩
    | ok c => exact ⟨_, verified rfl, rfl⟩
  case setReady => exact ⟨_, crcOnly s.crcreg rfl, rfl⟩
  all_goals exact absurd hi (by simp [Instr.isPure, Instr.opsel])

/-! ### The rows of the sequencer -/

/-- The rows of R75 by name, with what each finds and leaves: `seqStep_cases` in a form that a proof can split by name. -/
inductive SeqRow (c : Command) (a : DWord) (s : State) : State → Prop
  | start (hready : reqReady s = true) : SeqRow c a s (enter .validate s)
  | invalid {e : Error} (hphase : s.phase = .validate) (hval : validate s.cfg c a = .error e) : SeqRow c a s (raise e s)
  | validated {args : List Word} (hphase : s.phase = .validate) (hval : validate s.cfg c a = .ok args) :
      SeqRow c a s (enter .encode { s with reqArgs := args })
  | encoded {m : Memory} (hphase : s.phase = .encode) (hwrite : txWrite s.txbuf 0 (frame s.cfg c s.reqArgs) = .ok m) :
      SeqRow c a s (enter .transmit
        { crcPasses (frameWords s.cfg c s.reqArgs) s with txbuf := m, txlen := (frame s.cfg c s.reqArgs).length })
  | writeIssued {bytes : List Byte} (hphase : s.phase = .transmit) (hout : s.outstanding = false)
      (hread : txRead s.txbuf 0 s.txlen = .ok bytes) : SeqRow c a s (issue (.write s.cfg.devAddr bytes) s)
  | written (hphase : s.phase = .transmit) (hout : s.outstanding = true) (hans : answer s = some .writeOk) :
      SeqRow c a s (enter .await s)
  | waitIssued (hphase : s.phase = .await) (hout : s.outstanding = false) :
      SeqRow c a s (issue (.wait (delayMs s.cfg c)) s)
  | returnsUnit (hphase : s.phase = .await) (hout : s.outstanding = true) (hans : answer s = some .done)
      (hwords : respWords c = 0) : SeqRow c a s (ret .unit s)
  | awaited (hphase : s.phase = .await) (hout : s.outstanding = true) (hans : answer s = some .done)
      (hwords : respWords c ≠ 0) : SeqRow c a s (enter .receive s)
  | readIssued (hphase : s.phase = .receive) (hout : s.outstanding = false) :
      SeqRow c a s (issue (.read s.cfg.devAddr (Config.wireWordBytes * respWords c)) s)
  | received {bytes : List Byte} (hphase : s.phase = .receive) (hout : s.outstanding = true)
      (hans : answer s = some (.readOk bytes)) : SeqRow c a s (enter .decode (loadRx bytes s))
  | failed {k : TKind} (hphase : s.phase = .transmit ∨ s.phase = .receive) (hout : s.outstanding = true)
      (hans : answer s = some (.fail k)) : SeqRow c a s (raise (.transport k) s)
  | decoded (hphase : s.phase = .decode) : SeqRow c a s (finishDecode s.rxbuf (respWords c) (decodeResult c) s)
  | waiting (hphase : s.phase = .transmit ∨ s.phase = .await ∨ s.phase = .receive) (hout : s.outstanding = true) :
      SeqRow c a s s

/-- A step of the sequencer takes one of its rows. -/
theorem seqStep_row {c : Command} {a : DWord} {s t : State} (h : seqStep c a s = .next t) : SeqRow c a s t := by
  rcases seqStep_cases h with ⟨hr, rfl⟩ | ⟨hp, e, hv, rfl⟩ | ⟨hp, args, hv, rfl⟩ | ⟨hp, m, hw, rfl⟩ |
    ⟨hp, ho, bytes, hr, rfl⟩ | ⟨hp, ho, ha, rfl⟩ | ⟨hp, ho, rfl⟩ | ⟨hp, ho, ha, hn, rfl⟩ | ⟨hp, ho, ha, hn, rfl⟩ |
    ⟨hp, ho, rfl⟩ | ⟨hp, ho, bytes, ha, rfl⟩ | ⟨hp, ho, k, ha, rfl⟩ | ⟨hp, rfl⟩ | ⟨hp, ho, rfl⟩
  · exact .start hr
  · exact .invalid hp hv
  · exact .validated hp hv
  · exact .encoded hp hw
  · exact .writeIssued hp ho hr
  · exact .written hp ho ha
  · exact .waitIssued hp ho
  · exact .returnsUnit hp ho ha hn
  · exact .awaited hp ho ha hn
  · exact .readIssued hp ho
  · exact .received hp ho ha
  · exact .failed hp ho ha
  · exact .decoded hp
  · exact .waiting hp ho

theorem SeqRow.req {c : Command} {a : DWord} {s t : State} (h : SeqRow c a s t) : t.req = s.req := by
  cases h
  case decoded hphase => simp [finishDecode]
  all_goals rfl

/-- No row writes the configuration or the ports. -/
theorem SeqRow.outside {c : Command} {a : DWord} {s t : State} (h : SeqRow c a s t) :
    t.cfg = s.cfg ∧ t.requests = s.requests ∧ t.inputs = s.inputs := by
  cases h
  case decoded hphase => simp [finishDecode]
  all_goals exact ⟨rfl, rfl, rfl⟩

/-- Each working register is written by the phases that own it alone (R11 to R14, 20_memory.md R21; log 13). -/
theorem SeqRow.registers {c : Command} {a : DWord} {s t : State} (h : SeqRow c a s t) :
    (s.phase ≠ .validate → t.reqArgs = s.reqArgs) ∧ (s.phase ≠ .encode → t.txlen = s.txlen ∧ t.txbuf = s.txbuf) ∧
    (s.phase ≠ .receive → t.rxbuf = s.rxbuf ∧ t.rxlen = s.rxlen) ∧
    (s.phase ≠ .encode → s.phase ≠ .decode → t.crcreg = s.crcreg) ∧ (s.phase ≠ .decode → t.widx = s.widx) := by
  cases h
  case validated args hphase hval => simp [hphase]
  case encoded m hphase hwrite => simp [hphase]
  case received bytes hphase hout hans => simp [hphase]
  case decoded hphase => simp [hphase, finishDecode]
  all_goals simp

/-- A row issues at most one transaction, and that on the port of its phase (R75). -/
theorem SeqRow.trace {c : Command} {a : DWord} {s t : State} (h : SeqRow c a s t) :
    t.trace = s.trace ∨
      (s.phase = .transmit ∧ ∃ bytes, t.trace = s.trace ++ [.write s.cfg.devAddr bytes]) ∨
      (s.phase = .await ∧ t.trace = s.trace ++ [.wait (s.cfg.delayMs.get c)]) ∨
      (s.phase = .receive ∧ t.trace = s.trace ++ [.read s.cfg.devAddr (3 * respWords c)]) := by
  cases h
  case writeIssued bytes hphase hout hread => exact .inr (.inl ⟨hphase, bytes, rfl⟩)
  case waitIssued hphase hout => exact .inr (.inr (.inl ⟨hphase, rfl⟩))
  case readIssued hphase hout => exact .inr (.inr (.inr ⟨hphase, rfl⟩))
  case decoded hphase => exact .inl (by simp [finishDecode])
  all_goals exact .inl rfl

/-- A row either leaves the exchange running, with the outcome registers as they were, or ends it. -/
theorem SeqRow.outcome {c : Command} {a : DWord} {s t : State} (h : SeqRow c a s t) :
    (reqReady t = false ∧ t.res = s.res ∧ t.resValid = s.resValid ∧ t.err = s.err) ∨
      ∃ o u, t = finish o u ∧ u.res = s.res := by
  cases h
  case invalid e hphase hval => exact .inr ⟨.error e, s, rfl, rfl⟩
  case returnsUnit hphase hout hans hwords => exact .inr ⟨.ok .unit, s, rfl, rfl⟩
  case failed k hphase hout hans => exact .inr ⟨.error (.transport k), s, rfl, rfl⟩
  case decoded hphase => exact .inr ⟨_, _, rfl, rfl⟩
  case waiting hphase hout => exact .inl ⟨by rcases hphase with hp | hp | hp <;> simp [reqReady, hp], rfl, rfl, rfl⟩
  all_goals exact .inl ⟨by simp [reqReady, *], rfl, rfl, rfl⟩

/-- ENCODE stores the bytes of the frame from index 0 and leaves every other byte (R21, log 17). -/
theorem SeqRow.frame_stored {c : Command} {a : DWord} {s t : State} (h : SeqRow c a s t) (hphase : s.phase = .encode) :
    t.txlen = (frame s.cfg c s.reqArgs).length ∧ t.txbuf = Memory.writeList s.txbuf 0 (frame s.cfg c s.reqArgs) := by
  cases h
  case encoded m hphase hwrite =>
    obtain ⟨-, rfl⟩ := txWrite_eq_ok.mp hwrite
    exact ⟨rfl, rfl⟩
  all_goals simp_all [reqReady]

/-- In a ready block a row is the start of the exchange, at acceptance (R74). -/
theorem seqStep_of_ready {s : State} (hready : reqReady s = true) (c : Command) (a : DWord) :
    seqStep c a s = .next (enter .validate s) := by
  rcases reqReady_iff.mp hready with hphase | hphase <;> simp [seqStep, hphase]

/-- An operation that goes on has ended with its outcome, or it is a catalog command that has taken one row. -/
theorem exec_cases {i : Instr} {s t : State} (h : exec i s = .next t) :
    (∃ u, WorkedOn i s u ∧ t = finish (pureOutcome s.cfg i) u) ∨
      ∃ c a, i = Command.toInstr c a ∧ seqStep c a s = .next t := by
  have finished (hi : i.isPure = true ∨ i = .setReady) :
      ∃ u, WorkedOn i s u ∧ t = finish (pureOutcome s.cfg i) u := by
    obtain ⟨u, hu, hexec⟩ := exec_pure hi s
    rw [hexec] at h
    cases h
    exact ⟨u, hu, rfl⟩
  rcases Instr.kinds i with hpure | hready | ⟨c, a, rfl⟩
  · exact .inl (finished (.inl hpure))
  · exact .inl (finished (.inr hready))
  · exact .inr ⟨c, a, rfl, exec_toInstr c a s ▸ h⟩

end Sys2Proof.Proofs
end

section
namespace Sys2Proof.Proofs

open Sys2Proof.Machine Sys2Proof.Safety Sys2Proof.Stmt

/-! ### What ENCODE and VALIDATE may write -/

/-- The cells of a store after a list of bytes was written: new ones below the end of the range, and those from before. -/
theorem mem_writeList {m : Memory} {i : Nat} {bs : List Byte} {d : Host.Cell} (h : d ∈ Memory.writeList m i bs) :
    d.1 < i + bs.length ∨ d ∈ m := by
  induction bs generalizing m i with
  | nil => exact .inr h
  | cons b bs ih =>
    rcases ih h with hlt | hmem
    · exact .inl (by simp only [List.length_cons]; omega)
    · rcases Memory.mem_write hmem with rfl | hmem
      · exact .inl (by simp)
      · exact .inr hmem

theorem argWords_le_maxArgWords (c : Command) : argWords c ≤ Config.maxArgWords := by cases c <;> decide

/-! ### The invariant, part by part -/

theorem bufferInv_workedOn {i : Instr} {s u : State} (h : BufferInv s) (hu : WorkedOn i s u) : BufferInv u := by
  obtain ⟨hwf, hcells, hlen, hset, hrx, hargs⟩ := h
  obtain ⟨crc, widx, rx, len, rfl, hscratch⟩ := hu
  have hlength : len = rx.length := by
    split at hscratch
    · exact hscratch.2
    · obtain ⟨rfl, rfl, -⟩ := hscratch
      exact hrx
  exact ⟨hwf, hcells, hlen, hset, hlength, hargs⟩

theorem bufferInv_finish {o : Except Error Result} {s : State} (h : BufferInv s) : BufferInv (finish o s) := by
  cases o <;> exact h

/-- A frame that ENCODE stores is set from index 0 to its end, inside the buffer (10_state.md R13). -/
theorem bufferInv_encoded {s : State} {m : Memory} {bs : List Byte} (h : BufferInv s)
    (hwrite : txWrite s.txbuf 0 bs = .ok m) : BufferInv { s with txbuf := m, txlen := bs.length } := by
  obtain ⟨hwf, hcells, -, -, hrx, hargs⟩ := h
  have hwf' := txWrite_wf hwf hwrite
  obtain ⟨hfits, rfl⟩ := txWrite_eq_ok.mp hwrite
  have hlen : bs.length ≤ Config.txCapacity := by omega
  refine ⟨hwf', fun d hd => ?_, hlen, fun i hi => ?_, hrx, hargs⟩
  · rcases mem_writeList hd with hlt | hmem
    · omega
    · exact hcells d hmem
  · have hi' : i < bs.length := hi
    simp [Memory.read_writeList, hi']

theorem SeqRow.bufferInv {c : Command} {a : DWord} {s t : State} (h : SeqRow c a s t) (hs : BufferInv s) : BufferInv t := by
  cases h
  case validated args hphase hval =>
    obtain ⟨hwf, hcells, hlen, hset, hrx, -⟩ := hs
    exact ⟨hwf, hcells, hlen, hset, hrx, (validate_length hval).trans_le (argWords_le_maxArgWords c)⟩
  case encoded m hphase hwrite =>
    have hstored := bufferInv_encoded hs hwrite
    exact hstored
  case received bytes hphase hout hans =>
    obtain ⟨hwf, hcells, hlen, hset, -, hargs⟩ := hs
    exact ⟨hwf, hcells, hlen, hset, rfl, hargs⟩
  case decoded hphase => exact bufferInv_finish hs
  all_goals exact hs

theorem outcomeInv_finish {o : Except Error Result} {s : State} (hres : s.res = none) : OutcomeInv (finish o s) := by
  cases o with
  | ok v => exact .inl ⟨rfl, rfl, rfl⟩
  | error e => exact .inr ⟨rfl, hres, e, rfl⟩

theorem outcomeInv_of_busy {s : State} (hbusy : reqReady s = false) :
    OutcomeInv s ↔ s.resValid = false ∧ s.res = none ∧ s.err = ErrReg.clear := by
  rw [OutcomeInv, if_neg (phase_ne_done_of_busy hbusy)]

/-- The row's progress: the state it leaves has validated, built and issued what its own phase says (R75). -/
theorem SeqRow.progressInv {c : Command} {a : DWord} {s t : State} (h : SeqRow c a s t) (hs : ProgressInv c a s) :
    ProgressInv c a t := by
  cases h
  case validated args hphase hval => exact ⟨rfl, hval⟩
  case encoded m hphase hwrite =>
    obtain ⟨hfits, rfl⟩ := txWrite_eq_ok.mp hwrite
    simp only [ProgressInv, hphase] at hs
    obtain ⟨-, hval⟩ := hs
    exact ⟨hval, txRead_writeList (by simpa using hfits), nofun⟩
  case writeIssued bytes hphase hout hread =>
    simp only [ProgressInv, hphase, issue_phase] at hs ⊢
    obtain ⟨hval, hframe, -⟩ := hs
    obtain rfl : bytes = frame s.cfg c s.reqArgs := by simpa [hread] using hframe
    exact ⟨hval, hframe, fun _ => ⟨s.trace, rfl⟩⟩
  case written hphase hout hans =>
    simp only [ProgressInv, hphase] at hs
    obtain ⟨hval, -, hsent⟩ := hs
    obtain ⟨before, htrace⟩ := hsent hout
    exact ⟨hval, before, by simpa using htrace⟩
  case waitIssued hphase hout =>
    simp only [ProgressInv, hphase, issue_phase, hout] at hs ⊢
    obtain ⟨hval, before, htrace⟩ := hs
    exact ⟨hval, before, by simp [htrace]⟩
  case awaited hphase hout hans hwords =>
    simp only [ProgressInv, hphase, hout] at hs
    obtain ⟨hval, before, htrace⟩ := hs
    exact ⟨hwords, hval, before, by simpa using htrace⟩
  case readIssued hphase hout =>
    simp only [ProgressInv, hphase, issue_phase, hout] at hs ⊢
    obtain ⟨hwords, hval, before, htrace⟩ := hs
    exact ⟨hwords, hval, before, by simp [htrace]⟩
  case received bytes hphase hout hans =>
    simp only [ProgressInv, hphase, hout] at hs
    obtain ⟨hwords, hval, before, htrace⟩ := hs
    exact ⟨rfl, hwords, hval, before, by simpa using htrace⟩
  case waiting hphase hout => exact hs
  case start hready => rfl
  case invalid e hphase hval => exact trivial
  case returnsUnit hphase hout hans hwords => exact trivial
  case failed k hphase hout hans => exact trivial
  case decoded hphase => simp [ProgressInv, finishDecode]

/-! ### The operand of a catalog command -/

theorem toInstr_not_pure (c : Command) (a : DWord) : ¬ ((c.toInstr a).isPure = true ∨ c.toInstr a = .setReady) := by
  cases c <;> simp [Command.toInstr, Instr.isPure, Instr.opsel]

@[simp] theorem toInstr_fields_a (c : Command) (a : DWord) : (c.toInstr a).fields.a = a := by cases c <;> rfl

/-- An operation that is neither pure nor SET_READY takes its operand from the field `a` (30_encoding.md R31). -/
theorem decode_operand {q : ReqFields} {i : Instr} (h : q.decode = .ok i) :
    i.isPure = true ∨ i = .setReady ∨ i.fields.a = q.a := by
  unfold ReqFields.decode at h
  split at h <;> cases h <;> simp [Instr.isPure, Instr.opsel, Instr.fields]

/-- A catalog command's operand is the field `a` of the request it was decoded from. -/
theorem decode_toInstr {q : ReqFields} {c : Command} {a : DWord} (h : q.decode = .ok (c.toInstr a)) :
    q.decode = .ok (c.toInstr q.a) := by
  have ha : a = q.a := by
    rcases decode_operand h with hpure | hready | ha
    · exact absurd (.inl hpure) (toInstr_not_pure c a)
    · exact absurd (.inr hready) (toInstr_not_pure c a)
    · simpa using ha
  exact ha ▸ h

/-! ### The invariant as a whole -/

theorem sequencerInv_finish (o : Except Error Result) (s : State) : SequencerInv (finish o s) := by
  simp [SequencerInv, reqReady]

/-- An operation that ends leaves the invariant, if it began without a result (log 15). -/
theorem invariant_finish {o : Except Error Result} {s : State} (hbuf : BufferInv s) (hres : s.res = none) :
    Invariant (finish o s) :=
  ⟨bufferInv_finish hbuf, outcomeInv_finish hres, sequencerInv_finish o s⟩

theorem invariant_resetBlock (s : State) : Invariant (resetBlock s) := by
  refine ⟨⟨rfl, nofun, Nat.zero_le _, nofun, rfl, ?_⟩, ⟨rfl, rfl, rfl⟩, rfl⟩
  exact Option.length_toList_le

theorem sequencerInv_of_busy {s : State} (hbusy : reqReady s = false) :
    SequencerInv s ↔ ∃ c : Command, s.req.decode = .ok (c.toInstr s.req.a) ∧ ProgressInv c s.req.a s := by
  simp [SequencerInv, hbusy]

/-- A row of a running exchange keeps the invariant. -/
theorem SeqRow.invariant {c : Command} {s t : State} (h : SeqRow c s.req.a s t) (hs : Invariant s)
    (hbusy : reqReady s = false) (hreq : s.req.decode = .ok (c.toInstr s.req.a)) (hprog : ProgressInv c s.req.a s) :
    Invariant t := by
  obtain ⟨hbuf, hout, -⟩ := hs
  obtain ⟨hvalid, hres, herr⟩ := (outcomeInv_of_busy hbusy).mp hout
  refine ⟨h.bufferInv hbuf, ?_⟩
  rcases h.outcome with ⟨hbusy', hres', hvalid', herr'⟩ | ⟨o, u, rfl, hres'⟩
  · have hprog' : ProgressInv c t.req.a t := h.req ▸ h.progressInv hprog
    exact ⟨(outcomeInv_of_busy hbusy').mpr ⟨hvalid' ▸ hvalid, hres' ▸ hres, herr' ▸ herr⟩,
      (sequencerInv_of_busy hbusy').mpr ⟨c, h.req ▸ hreq, hprog'⟩⟩
  · exact ⟨outcomeInv_finish (hres' ▸ hres), sequencerInv_finish o u⟩

/-- An accepted catalog command starts its exchange with the invariant (R74). -/
theorem invariant_start {c : Command} {a : DWord} {r : Request} {rest : List Request} {s : State} (hbuf : BufferInv s)
    (hdecode : decode r = .ok (c.toInstr a)) : Invariant (enter .validate (accept r rest s)) :=
  ⟨hbuf, ⟨rfl, rfl, rfl⟩, c, decode_toInstr hdecode, rfl⟩

theorem invariant_tick {s : State} : Invariant (tick s) ↔ Invariant s := Iff.rfl

/-- The outcome of an operation that was just accepted. -/
theorem invariant_finish_accept {i : Instr} {r : Request} {rest : List Request} {s u : State}
    (hbuf : BufferInv s) (hu : WorkedOn i (accept r rest s) u) (o : Except Error Result) : Invariant (finish o u) := by
  have hbuf' : BufferInv u := bufferInv_workedOn (s := accept r rest s) hbuf hu
  obtain ⟨crc, widx, rx, len, rfl, -⟩ := hu
  exact invariant_finish hbuf' rfl

/-- An operation that runs keeps the invariant. -/
theorem invariant_run {s u t : State} {i : Instr} (hs : Invariant s) (hfetch : fetch s = .run i u)
    (hexec : exec i u = .next t) : Invariant t := by
  obtain ⟨hbuf, -, hseq⟩ := id hs
  rcases fetch_run hfetch with ⟨hready, r, rest, -, hdecode, rfl⟩ | ⟨hbusy, hdecode, rfl⟩
  · rcases exec_cases hexec with ⟨v, hv, rfl⟩ | ⟨c, a, rfl, hrow⟩
    · exact invariant_finish_accept hbuf hv _
    · rw [seqStep_of_ready (s := accept r rest s) hready] at hrow
      cases hrow
      exact invariant_start hbuf hdecode
  · obtain ⟨c, hreq, hprog⟩ := (sequencerInv_of_busy hbusy).mp hseq
    obtain rfl : i = c.toInstr u.req.a := by simpa [hreq] using hdecode.symm
    rw [exec_toInstr] at hexec
    exact (seqStep_row hexec).invariant hs hbusy hreq hprog

/-- A reserved selector that is refused keeps the invariant; no busy block holds one. -/
theorem invariant_refused {s u : State} {sel : Byte} (hs : Invariant s) (hfetch : fetch s = .reserved sel u) :
    Invariant (raise (.unsupported sel) u) := by
  obtain ⟨hbuf, -, hseq⟩ := hs
  rcases fetch_reserved hfetch with ⟨-, r, rest, -, -, rfl⟩ | ⟨hbusy, hdecode, -⟩
  · exact invariant_finish (o := .error (.unsupported sel)) (s := accept r rest s) hbuf rfl
  · obtain ⟨c, hreq, -⟩ := (sequencerInv_of_busy hbusy).mp hseq
    simp [hreq] at hdecode

/-- Settles O55: reset and every row of the sequencer keep each part of the invariant. -/
theorem invariantKept : Obligations.InvariantKept := by
  intro s t hs hstep
  rcases step_cases hstep with ⟨-, rfl⟩ | ⟨-, -, rfl⟩ | ⟨-, i, u, v, hfetch, hexec, rfl⟩ | ⟨-, sel, u, hfetch, rfl⟩
  · exact invariant_tick.mpr (invariant_resetBlock s)
  · exact invariant_tick.mpr hs
  · exact invariant_tick.mpr (invariant_run hs hfetch hexec)
  · exact invariant_tick.mpr (invariant_refused hs hfetch)

end Sys2Proof.Proofs
end

section
namespace Sys2Proof.Proofs

open Sys2Proof.Machine Sys2Proof.Safety Sys2Proof.Stmt

/-! ### Two blocks that look alike -/

/-- The two blocks have the same configuration, ports and trace. -/
structure SameOutside (s t : State) : Prop where
  cfg : s.cfg = t.cfg
  requests : s.requests = t.requests
  inputs : s.inputs = t.inputs
  trace : s.trace = t.trace

/-- The two blocks run the same request, with the same outcome so far. -/
structure SameRun (s t : State) : Prop extends SameOutside s t where
  req : s.req = t.req
  resValid : s.resValid = t.resValid
  err : s.err = t.err
  res : s.resValid = true → s.res = t.res

/-- Whenever the first of two steps goes on, so does the second, and to a state alike. -/
def AlikeAfter (o p : Step) : Prop := ∀ s', o = .next s' → ∃ t', p = .next t' ∧ Alike s' t'

theorem alikeAfter_next {s t : State} (h : Alike s t) : AlikeAfter (.next s) (.next t) := by
  rintro _ ⟨⟩
  exact ⟨t, rfl, h⟩

theorem alikeAfter_fault (f : Fault) (p : Step) : AlikeAfter (.fault f) p := by
  rintro _ ⟨⟩

theorem sameRun_of_alike {s t : State} (h : Alike s t) (hreq : s.req = t.req) : SameRun s t := by
  obtain ⟨-, -, hcfg, hrequests, hinputs, htrace, hvalid, herr, hres, -⟩ := h
  exact ⟨⟨hcfg, hrequests, hinputs, htrace⟩, hreq, hvalid, herr, hres⟩

theorem alike_tick {s t : State} (h : Alike s t) : Alike (tick s) (tick t) := by
  obtain ⟨hphase, hout, hcfg, hrequests, hinputs, hrest⟩ := h
  exact ⟨hphase, hout, hcfg, hrequests, congrArg List.tail hinputs, hrest⟩

theorem alikeAfter_thenTick {o p : Step} (h : AlikeAfter o p) : AlikeAfter (thenTick o) (thenTick p) := by
  intro s' hs'
  obtain ⟨u, hu, rfl⟩ := thenTick_eq_next hs'
  obtain ⟨v, rfl, halike⟩ := h u hu
  exact ⟨tick v, rfl, alike_tick halike⟩

/-- An outcome shows nothing of the working registers of the operation it ends. -/
theorem alike_finish {s t : State} (h : SameOutside s t) (o : Except Error Result) : Alike (finish o s) (finish o t) := by
  cases o <;> simp [Alike, busy, reqReady, h.cfg, h.requests, h.inputs, h.trace]

/-- On entry to a phase only the registers that this phase reads have to agree. -/
theorem alike_enter {s t : State} (h : SameRun s t) {p : Phase} (hargs : p = .encode → s.reqArgs = t.reqArgs)
    (htx : p = .transmit → txRead s.txbuf 0 s.txlen = txRead t.txbuf 0 t.txlen)
    (hrx : p = .decode → s.rxbuf = t.rxbuf) : Alike (enter p s) (enter p t) :=
  ⟨rfl, rfl, h.cfg, h.requests, h.inputs, h.trace, h.resValid, h.err, h.res, fun _ => h.req, hargs,
    fun hp _ => htx hp, hrx⟩

theorem alike_issue {s t : State} (h : Alike s t) (e : PortEvent) : Alike (issue e s) (issue e t) := by
  obtain ⟨hphase, -, hcfg, hrequests, hinputs, htrace, hvalid, herr, hres, hreq, hargs, -, hrx⟩ := h
  exact ⟨hphase, rfl, hcfg, hrequests, hinputs, congrArg (· ++ [e]) htrace, hvalid, herr, hres, hreq, hargs, nofun,
    hrx⟩

theorem answer_alike {s t : State} (h : Alike s t) : answer s = answer t := by
  obtain ⟨-, hout, -, -, hinputs, htrace, -⟩ := h
  simp only [answer, currentInput, hinputs, hout, htrace]

/-! ### Alike blocks step alike, phase by phase -/

theorem seqValidate_alike {s t : State} (h : SameRun s t) (c : Command) (a : DWord) :
    AlikeAfter (seqValidate c a s) (seqValidate c a t) := by
  cases hval : validate s.cfg c a with
  | error e =>
    have hval' : validate t.cfg c a = .error e := h.cfg ▸ hval
    simp only [seqValidate, hval, hval']
    exact alikeAfter_next (alike_finish h.toSameOutside (.error e))
  | ok args =>
    have hval' : validate t.cfg c a = .ok args := h.cfg ▸ hval
    have hrun : SameRun { s with reqArgs := args } { t with reqArgs := args } :=
      ⟨⟨h.cfg, h.requests, h.inputs, h.trace⟩, h.req, h.resValid, h.err, h.res⟩
    simp only [seqValidate, hval, hval']
    exact alikeAfter_next (alike_enter (p := .encode) hrun (fun _ => rfl) nofun nofun)

/-- Both blocks store the same frame, and all that TRANSMIT will read of TXBUF is that frame. -/
theorem seqEncode_alike {s t : State} (h : SameRun s t) (hargs : s.reqArgs = t.reqArgs) (c : Command) :
    AlikeAfter (seqEncode c s) (seqEncode c t) := by
  have hframe : frame t.cfg c t.reqArgs = frame s.cfg c s.reqArgs := by rw [h.cfg, hargs]
  by_cases hfits : (frame s.cfg c s.reqArgs).length ≤ Config.txCapacity
  case pos =>
    have stored (u : State) : txWrite u.txbuf 0 (frame s.cfg c s.reqArgs) =
        .ok (Memory.writeList u.txbuf 0 (frame s.cfg c s.reqArgs)) := txWrite_eq_ok.mpr ⟨by simpa using hfits, rfl⟩
    simp only [seqEncode, hframe, stored]
    refine alikeAfter_next (alike_enter (p := .transmit) ?_ nofun (fun _ => ?_) nofun)
    · exact ⟨⟨h.cfg, h.requests, h.inputs, h.trace⟩, h.req, h.resValid, h.err, h.res⟩
    · simp only [txRead_writeList hfits]
  case neg =>
    simp only [seqEncode, txWrite, Nat.zero_add, if_neg hfits]
    exact alikeAfter_fault _ _

theorem seqTransmit_alike {s t : State} (h : Alike s t) (hreq : s.req = t.req) (hphase : s.phase = .transmit) :
    AlikeAfter (seqTransmit s) (seqTransmit t) := by
  have hrun := sameRun_of_alike h hreq
  have hans := answer_alike h
  obtain ⟨-, hout, -, -, -, -, -, -, -, -, -, htx, -⟩ := id h
  cases ho : s.outstanding with
  | true =>
    simp only [seqTransmit, ← hout, ho, ← hans, if_true]
    rcases answer s with _ | (_ | bytes | k | _)
    case some.writeOk => exact alikeAfter_next (alike_enter (p := .await) hrun nofun nofun nofun)
    case some.fail => exact alikeAfter_next (alike_finish hrun.toSameOutside (.error (.transport k)))
    all_goals exact alikeAfter_next h
  | false =>
    simp only [seqTransmit, ← hout, ho, ← htx hphase ho, ← hrun.cfg, Bool.false_eq_true, if_false]
    cases txRead s.txbuf 0 s.txlen with
    | error f => exact alikeAfter_fault f _
    | ok bytes => exact alikeAfter_next (alike_issue h _)

theorem seqAwait_alike {s t : State} (h : Alike s t) (hreq : s.req = t.req) (c : Command) :
    AlikeAfter (seqAwait c s) (seqAwait c t) := by
  have hrun := sameRun_of_alike h hreq
  have hans := answer_alike h
  obtain ⟨-, hout, -⟩ := id h
  cases ho : s.outstanding with
  | true =>
    simp only [seqAwait, ← hout, ho, ← hans, if_true]
    rcases answer s with _ | (_ | bytes | k | _)
    case some.done =>
      by_cases hwords : respWords c = 0
      · simp only [hwords, if_true]
        exact alikeAfter_next (alike_finish hrun.toSameOutside (.ok .unit))
      · simp only [hwords, if_false]
        exact alikeAfter_next (alike_enter (p := .receive) hrun nofun nofun nofun)
    all_goals exact alikeAfter_next h
  | false =>
    simp only [seqAwait, ← hout, ho, ← hrun.cfg]
    exact alikeAfter_next (alike_issue h _)

theorem seqReceive_alike {s t : State} (h : Alike s t) (hreq : s.req = t.req) (c : Command) :
    AlikeAfter (seqReceive c s) (seqReceive c t) := by
  have hrun := sameRun_of_alike h hreq
  have hans := answer_alike h
  obtain ⟨-, hout, -⟩ := id h
  cases ho : s.outstanding with
  | true =>
    simp only [seqReceive, ← hout, ho, ← hans, if_true]
    rcases answer s with _ | (_ | bytes | k | _)
    case some.readOk =>
      have hloaded : SameRun (loadRx bytes s) (loadRx bytes t) :=
        ⟨⟨hrun.cfg, hrun.requests, hrun.inputs, hrun.trace⟩, hrun.req, hrun.resValid, hrun.err, hrun.res⟩
      exact alikeAfter_next (alike_enter (p := .decode) hloaded nofun nofun (fun _ => rfl))
    case some.fail => exact alikeAfter_next (alike_finish hrun.toSameOutside (.error (.transport k)))
    all_goals exact alikeAfter_next h
  | false =>
    simp only [seqReceive, ← hout, ho, ← hrun.cfg]
    exact alikeAfter_next (alike_issue h _)

/-- The outcome of DECODE is that of RXBUF alone; what `CRCREG` and `WIDX` held before shows nowhere (log 13). -/
theorem seqDecode_alike {s t : State} (h : SameOutside s t) (hrx : s.rxbuf = t.rxbuf) (c : Command) :
    AlikeAfter (seqDecode c s) (seqDecode c t) := by
  have hverified : SameOutside (afterVerify s.rxbuf s) (afterVerify s.rxbuf t) := ⟨h.cfg, h.requests, h.inputs, h.trace⟩
  simp only [seqDecode, finishDecode, ← hrx]
  exact alikeAfter_next (alike_finish hverified _)

theorem seqStep_alike {s t : State} (h : Alike s t) (hreq : s.req = t.req) (c : Command) (a : DWord) :
    AlikeAfter (seqStep c a s) (seqStep c a t) := by
  have hrun := sameRun_of_alike h hreq
  obtain ⟨hphase, -, -, -, -, -, -, -, -, -, hargs, -, hrx⟩ := id h
  cases hp : s.phase <;> simp only [seqStep, ← hphase, hp]
  case idle => exact alikeAfter_next (alike_enter (p := .validate) hrun nofun nofun nofun)
  case done => exact alikeAfter_next (alike_enter (p := .validate) hrun nofun nofun nofun)
  case validate => exact seqValidate_alike hrun c a
  case encode => exact seqEncode_alike hrun (hargs hp) c
  case transmit => exact seqTransmit_alike h hreq hp
  case await => exact seqAwait_alike h hreq c
  case receive => exact seqReceive_alike h hreq c
  case decode => exact seqDecode_alike hrun.toSameOutside (hrx hp) c

/-! ### Alike blocks run alike -/

theorem sameOutside_workedOn {i : Instr} {s t u v : State} (h : SameOutside s t) (hu : WorkedOn i s u)
    (hv : WorkedOn i t v) : SameOutside u v := by
  obtain ⟨_, _, _, _, rfl, -⟩ := hu
  obtain ⟨_, _, _, _, rfl, -⟩ := hv
  exact ⟨h.cfg, h.requests, h.inputs, h.trace⟩

theorem exec_alike {s t : State} (h : Alike s t) (hreq : s.req = t.req) (i : Instr) : AlikeAfter (exec i s) (exec i t) := by
  have hout := (sameRun_of_alike h hreq).toSameOutside
  have ended (hi : i.isPure = true ∨ i = .setReady) : AlikeAfter (exec i s) (exec i t) := by
    obtain ⟨u, hu, hs⟩ := exec_pure hi s
    obtain ⟨v, hv, ht⟩ := exec_pure hi t
    rw [hs, ht, ← hout.cfg]
    exact alikeAfter_next (alike_finish (sameOutside_workedOn hout hu hv) _)
  rcases Instr.kinds i with hpure | hready | ⟨c, a, rfl⟩
  · exact ended (.inl hpure)
  · exact ended (.inr hready)
  · simpa only [exec_toInstr] using seqStep_alike h hreq c a

/-- The step of two alike blocks that run the same request `q`, just accepted or latched. -/
theorem step_alike_of_fetch {s t u v : State} {q : ReqFields} (hs : resetAsserted s = false) (ht : resetAsserted t = false)
    (hfetch : fetch s = fetchedOf q u) (hfetch' : fetch t = fetchedOf q v) (h : Alike u v) (hreq : u.req = v.req) :
    AlikeAfter (step s) (step t) := by
  cases hdecode : q.decode with
  | ok i =>
    rw [fetchedOf_ok hdecode] at hfetch hfetch'
    rw [step_run hs hfetch, step_run ht hfetch']
    exact alikeAfter_thenTick (exec_alike h hreq i)
  | error e =>
    have refused (w : State) : fetchedOf q w = .reserved q.opsel w := by simp [fetchedOf, hdecode]
    rw [refused] at hfetch hfetch'
    rw [step_reserved hs hfetch, step_reserved ht hfetch']
    exact alikeAfter_next (alike_tick (alike_finish (sameRun_of_alike h hreq).toSameOutside (.error _)))

theorem alike_resetBlock {s t : State} (h : Alike s t) : Alike (resetBlock s) (resetBlock t) := by
  obtain ⟨-, -, hcfg, hrequests, hinputs, htrace, -⟩ := h
  exact ⟨rfl, rfl, hcfg, hrequests, hinputs, htrace, rfl, rfl, fun _ => rfl, fun _ => rfl, fun _ => rfl, fun _ _ => rfl,
    fun _ => rfl⟩

/-- Acceptance makes the latched requests agree, whatever the latches held before (R74). -/
theorem alike_accept {s t : State} (h : Alike s t) (r : Request) (rest : List Request) :
    Alike (accept r rest s) (accept r rest t) := by
  obtain ⟨hphase, hout, hcfg, -, hinputs, htrace, -, -, -, -, hargs, htx, hrx⟩ := h
  exact ⟨hphase, hout, hcfg, rfl, hinputs, htrace, rfl, rfl, fun _ => rfl, fun _ => rfl, hargs, htx, hrx⟩

theorem step_alike {s t : State} (h : Alike s t) : AlikeAfter (step s) (step t) := by
  obtain ⟨hphase, -, -, hrequests, hinputs, -, -, -, -, hreq, -⟩ := id h
  have hreset : resetAsserted t = resetAsserted s := by simp only [resetAsserted, currentInput, hinputs]
  have hready : reqReady t = reqReady s := by simp only [reqReady, hphase]
  cases hr : resetAsserted s with
  | true =>
    rw [step_reset hr, step_reset (hreset ▸ hr)]
    exact alikeAfter_next (alike_tick (alike_resetBlock h))
  | false =>
    cases hrdy : reqReady s with
    | true =>
      cases hq : s.requests with
      | nil =>
        have hs : fetch s = .idle := by rw [fetch_ready hrdy, hq]
        have ht : fetch t = .idle := by rw [fetch_ready (hready ▸ hrdy), ← hrequests, hq]
        rw [step_idle hr hs, step_idle (hreset ▸ hr) ht]
        exact alikeAfter_next (alike_tick h)
      | cons r rest =>
        have hs : fetch s = fetchedOf r.fields (accept r rest s) := by rw [fetch_ready hrdy, hq]
        have ht : fetch t = fetchedOf r.fields (accept r rest t) := by rw [fetch_ready (hready ▸ hrdy), ← hrequests, hq]
        exact step_alike_of_fetch hr (hreset ▸ hr) hs ht (alike_accept h r rest) rfl
    | false =>
      have hsame : s.req = t.req := hreq (by simp [busy, hrdy])
      have ht : fetch t = fetchedOf s.req t := by rw [fetch_busy (hready ▸ hrdy), hsame]
      exact step_alike_of_fetch hr (hreset ▸ hr) (fetch_busy hrdy) ht h hsame

/-- Settles O58: acceptance makes the latches agree, and each phase reads only what `Alike` ties. -/
theorem statelessBetweenOperations : Obligations.StatelessBetweenOperations :=
  fun _ _ s' halike hstep => step_alike halike s' hstep

end Sys2Proof.Proofs
end

section
namespace Sys2Proof.Proofs

open Sys2Proof.Machine Sys2Proof.Safety Sys2Proof.Stmt

/-! ### Frames of the operations -/

/-- An operation that is none of the five decodes carries no data. -/
theorem carriesData_eq_false {i : Instr} (h : ∀ bytes n, i ≠ .decU16 bytes ∧ i ≠ .decU32 bytes ∧ i ≠ .decF32 bytes ∧
    i ≠ .decWords n bytes ∧ i ≠ .deframe n bytes) : carriesData i = false := by
  unfold carriesData
  split <;> simp_all

/-- Settles O34: a pure operation works in `CRCREG`, `WIDX` and RXBUF alone, and then ends with its outcome. -/
theorem pureOperationsFrame : Obligations.PureOperationsFrame := by
  intro i s hi
  obtain ⟨u, ⟨crc, widx, rx, len, rfl, hscratch⟩, hexec⟩ := exec_pure hi s
  have hdata (hplain : carriesData i = false) : rx = s.rxbuf ∧ len = s.rxlen ∧ widx = s.widx := by
    simpa [hplain] using hscratch
  refine ⟨_, hexec, ?_⟩
  cases pureOutcome s.cfg i with
  | ok v =>
    exact ⟨rfl, rfl, rfl, rfl, rfl, fun _ => rfl, rfl, rfl, rfl, rfl, fun _ => ⟨rfl, rfl⟩, nofun,
      fun hplain => hdata (carriesData_eq_false hplain)⟩
  | error e =>
    exact ⟨rfl, rfl, rfl, rfl, rfl, fun _ => rfl, rfl, rfl, rfl, rfl, nofun, fun _ => rfl,
      fun hplain => hdata (carriesData_eq_false hplain)⟩

/-- Settles O35: the outcome is `pureOutcome` of the operands and the configuration. -/
theorem pureOutcomeIgnoresState : Obligations.PureOutcomeIgnoresState := by
  intro i s s' t t' hi hcfg ht ht'
  obtain ⟨u, -, hexec⟩ := exec_pure (.inl hi) s
  obtain ⟨u', -, hexec'⟩ := exec_pure (.inl hi) s'
  obtain rfl : finish (pureOutcome s.cfg i) u = t := by simpa [hexec] using ht
  obtain rfl : finish (pureOutcome s.cfg i) u' = t' := by simpa [hexec', hcfg] using ht'
  cases pureOutcome s.cfg i with
  | ok v => exact ⟨rfl, rfl, fun _ => rfl⟩
  | error e => exact ⟨rfl, rfl, nofun⟩

/-- Settles O38, register by register over the rows of the sequencer. -/
theorem catalogFrame : Obligations.CatalogFrame := by
  intro c a s t hexec
  have hrow : SeqRow c a s t := seqStep_row (exec_toInstr c a s ▸ hexec)
  obtain ⟨hcfg, hrequests, hinputs⟩ := hrow.outside
  obtain ⟨hargs, htx, hrx, hcrc, hwidx⟩ := hrow.registers
  refine ⟨hrow.req, hcfg, hrequests, hinputs, hargs, fun hphase => ?_, fun hphase => ?_, hrx, hcrc, hwidx,
    fun hrunning => ?_, hrow.trace⟩
  · obtain ⟨hlen, hbuf⟩ := htx hphase
    exact ⟨hlen, fun k => by rw [hbuf]⟩
  · obtain ⟨hlen, hbuf⟩ := hrow.frame_stored hphase
    exact ⟨hlen, fun k => by simp [hbuf, Memory.read_writeList]⟩
  · rcases hrow.outcome with ⟨-, houtcome⟩ | ⟨o, u, rfl, -⟩
    · exact houtcome
    · exact absurd (finish_phase o u) hrunning

/-! ### The outcome is held -/

/-- A ready block with nothing presented and no reset lets time pass, whatever answers arrive. -/
theorem step_of_no_request {s : State} (hready : reqReady s = true) (hnone : s.requests = [])
    (hreset : resetAsserted s = false) : step s = .next (tick s) :=
  step_idle hreset (by rw [fetch_ready hready, hnone])

theorem resetAsserted_of_inputs {s : State} (h : ∀ i ∈ s.inputs, i.reset = false) : resetAsserted s = false := by
  unfold resetAsserted currentInput
  cases hinputs : s.inputs with
  | nil => rfl
  | cons i rest => exact h i (by simp [hinputs])

theorem runs_succ {n : Nat} {s u t : State} (hstep : step s = .next u) (hrest : Runs n u t) : Runs (n + 1) s t := by
  have hcore : Sys2Proof.core.step s = .next u := hstep
  simp only [Runs, Host.Core.run, hcore]
  exact hrest

/-- Any number of steps of a ready block to which no request and no reset comes. -/
theorem runs_of_no_request {s : State} (hready : reqReady s = true) (hnone : s.requests = [])
    (hquiet : ∀ i ∈ s.inputs, i.reset = false) (n : Nat) : Runs n s { s with inputs := s.inputs.drop n } := by
  induction n generalizing s with
  | zero => rfl
  | succ n ih =>
    have hlater : Runs n (tick s) { tick s with inputs := (tick s).inputs.drop n } :=
      ih hready hnone fun i hi => hquiet i (List.mem_of_mem_tail hi)
    have hdrop : (tick s).inputs.drop n = s.inputs.drop (n + 1) := by simp
    rw [hdrop] at hlater
    exact runs_succ (step_of_no_request hready hnone (resetAsserted_of_inputs hquiet)) hlater

/-- Settles O41: waiting steps are idle steps, and acceptance clears the outcome before the exchange starts. -/
theorem outcomeHeld : Obligations.OutcomeHeld := by
  intro s hdone _
  have hready : reqReady s = true := by simp [reqReady, hdone]
  refine ⟨fun n hnone hquiet => runs_of_no_request hready hnone hquiet n, ?_⟩
  rintro c a rest ⟨-, r, hrequests, hdecode⟩ hreset
  have hfetch : fetch s = .run (c.toInstr a) (accept r rest s) := by
    rw [fetch_ready hready, hrequests]
    exact fetchedOf_ok hdecode _
  have hstart : step s = .next (tick (enter .validate (accept r rest s))) := by
    rw [step_run hreset hfetch, exec_toInstr, seqStep_of_ready (s := accept r rest s) hready, thenTick_next]
  exact ⟨_, hstart, rfl, rfl, rfl, rfl, rfl⟩

/-! ### The configuration and the trace -/

/-- `t` has the configuration of `s`, and its trace with at most one event more. -/
def Extends (s t : State) : Prop := t.cfg = s.cfg ∧ ∃ more, t.trace = s.trace ++ more ∧ more.length ≤ 1

theorem extends_of_same {s t : State} (hcfg : t.cfg = s.cfg) (htrace : t.trace = s.trace) : Extends s t :=
  ⟨hcfg, [], by simp [htrace], by simp⟩

theorem exec_extends {i : Instr} {s t : State} (hexec : exec i s = .next t) : Extends s t := by
  rcases exec_cases hexec with ⟨u, ⟨_, _, _, _, rfl, -⟩, rfl⟩ | ⟨c, a, rfl, hstep⟩
  · exact extends_of_same (finish_cfg _ _) (finish_trace _ _)
  · have hrow := seqStep_row hstep
    obtain ⟨hcfg, -, -⟩ := hrow.outside
    rcases hrow.trace with htrace | ⟨-, bytes, htrace⟩ | ⟨-, htrace⟩ | ⟨-, htrace⟩
    · exact extends_of_same hcfg htrace
    all_goals exact ⟨hcfg, _, htrace, le_rfl⟩

/-- What a step runs, it runs in a state with the configuration and the trace of the one it began in. -/
theorem fetch_run_keeps {s u : State} {i : Instr} (h : fetch s = .run i u) : u.cfg = s.cfg ∧ u.trace = s.trace := by
  rcases fetch_run h with ⟨-, r, rest, -, -, rfl⟩ | ⟨-, -, rfl⟩ <;> exact ⟨rfl, rfl⟩

theorem fetch_reserved_keeps {s u : State} {sel : Byte} (h : fetch s = .reserved sel u) :
    u.cfg = s.cfg ∧ u.trace = s.trace := by
  rcases fetch_reserved h with ⟨-, r, rest, -, -, rfl⟩ | ⟨-, -, rfl⟩ <;> exact ⟨rfl, rfl⟩

/-- Settles O59: only an issue touches the trace, and only by appending. -/
theorem configAndTraceKept : Obligations.ConfigAndTraceKept := by
  intro s t hstep
  show Extends s t
  rcases step_cases hstep with ⟨-, rfl⟩ | ⟨-, -, rfl⟩ | ⟨-, i, u, v, hfetch, hexec, rfl⟩ | ⟨-, sel, u, hfetch, rfl⟩
  · exact extends_of_same rfl rfl
  · exact extends_of_same rfl rfl
  · obtain ⟨hcfg, htrace⟩ := fetch_run_keeps hfetch
    obtain ⟨hcfg', more, htrace', hmore⟩ := exec_extends hexec
    exact ⟨hcfg'.trans hcfg, more, htrace ▸ htrace', hmore⟩
  · obtain ⟨hcfg, htrace⟩ := fetch_reserved_keeps hfetch
    exact extends_of_same hcfg htrace

/-! ### Reset and outputs -/

/-- Settles O1: every conjunct is a reset value of `State.reset`, and an optional word makes a list of at most one. -/
theorem resetState : Obligations.ResetState :=
  ⟨rfl, Option.length_toList_le, rfl, Memory.read_nil, rfl, rfl, rfl, rfl, rfl, rfl, rfl, rfl⟩

/-- Settles O4: the three outputs are read off `PHASE`. -/
theorem outputsFromPhase : Obligations.OutputsFromPhase := by
  intro s t
  refine ⟨reqReady_iff, rfl, by simp [doneOut], fun hphase => ?_⟩
  simp only [reqReady, busy, doneOut, hphase, and_self]

/-- Settles O54: `State.reset` is what resetting it leaves (log 24), and its trace is empty. -/
theorem invariantAtReset : Obligations.InvariantAtReset :=
  ⟨invariant_resetBlock State.reset, rfl⟩

end Sys2Proof.Proofs
end

section
/-! The memory family (20_memory.md): the order of the port events (R26). -/

namespace Sys2Proof.Proofs

open Sys2Proof.Machine Sys2Proof.Safety

/-! ### Ordered traces -/

/-- Appending to a trace keeps it ordered exactly if the new event may follow the last one. -/
theorem orderedFrom_append_singleton (prev : Option PortEvent) (es : List PortEvent) (e : PortEvent) :
    orderedFrom prev (es ++ [e]) = (orderedFrom prev es && mayFollow (es.getLast?.or prev) e) := by
  induction es generalizing prev with
  | nil => simp [orderedFrom]
  | cons d es ih =>
    have hlast : (d :: es).getLast?.or prev = es.getLast?.or (some d) := by
      rw [List.getLast?_cons]
      cases es.getLast? <;> rfl
    rw [List.cons_append, orderedFrom, orderedFrom, ih, hlast, Bool.and_assoc]

theorem traceOrdered_of_trace_eq {s t : State} (htrace : t.trace = s.trace) (hs : TraceOrdered s) : TraceOrdered t := by
  rwa [TraceOrdered, htrace]

/-- Issuing a transaction is the one thing to check: it has to fit the last event of the trace. -/
theorem traceOrdered_issue {e : PortEvent} {s : State} (hs : TraceOrdered s)
    (hfollow : mayFollow s.trace.getLast? e = true) : TraceOrdered (issue e s) := by
  rw [TraceOrdered, issue_trace, orderedFrom_append_singleton, Option.or_none, hs, hfollow, Bool.and_self]

/-! ### Every step keeps the order -/

/-- A row issues in order: the progress of the exchange says which event is the last one (R75). -/
theorem SeqRow.traceOrdered {c : Command} {a : DWord} {s t : State} (h : SeqRow c a s t) (hprog : ProgressInv c a s)
    (hs : TraceOrdered s) : TraceOrdered t := by
  cases h
  case writeIssued bytes hphase hout hread => exact traceOrdered_issue hs rfl
  case waitIssued hphase hout =>
    simp only [ProgressInv, hphase, hout] at hprog
    obtain ⟨-, before, htrace⟩ := hprog
    exact traceOrdered_issue hs (by simp [htrace, mayFollow])
  case readIssued hphase hout =>
    simp only [ProgressInv, hphase, hout] at hprog
    obtain ⟨-, -, before, htrace⟩ := hprog
    exact traceOrdered_issue hs (by simp [htrace, mayFollow])
  case decoded hphase => exact traceOrdered_of_trace_eq (finish_trace _ _) hs
  all_goals exact hs

/-- An operation that runs keeps the order: acceptance and the pure operations issue nothing, and a busy block is in an
exchange that has made its progress. -/
theorem traceOrdered_run {s u t : State} {i : Instr} (hseq : SequencerInv s) (hs : TraceOrdered s)
    (hfetch : fetch s = .run i u) (hexec : exec i u = .next t) : TraceOrdered t := by
  rcases fetch_run hfetch with ⟨hready, r, rest, -, -, rfl⟩ | ⟨hbusy, hdecode, rfl⟩
  · rcases exec_cases hexec with ⟨v, ⟨_, _, _, _, rfl, -⟩, rfl⟩ | ⟨c, a, -, hrow⟩
    · exact traceOrdered_of_trace_eq (finish_trace _ _) hs
    · rw [seqStep_of_ready (s := accept r rest s) hready] at hrow
      cases hrow
      exact hs
  · obtain ⟨c, hreq, hprog⟩ := (sequencerInv_of_busy hbusy).mp hseq
    obtain rfl : i = c.toInstr u.req.a := by simpa [hreq] using hdecode.symm
    rw [exec_toInstr] at hexec
    exact (seqStep_row hexec).traceOrdered hprog hs

/-- Settles O57: only an exchange issues, and its progress names the event it issues after. -/
theorem portOrderKept : Obligations.PortOrderKept := by
  intro s t hinv hs hstep
  obtain ⟨-, -, hseq⟩ := hinv
  rcases step_cases hstep with ⟨-, rfl⟩ | ⟨-, -, rfl⟩ | ⟨-, i, u, v, hfetch, hexec, rfl⟩ | ⟨-, sel, u, hfetch, rfl⟩
  · exact hs
  · exact hs
  · exact traceOrdered_of_trace_eq (tick_trace v) (traceOrdered_run hseq hs hfetch hexec)
  · obtain ⟨-, htrace⟩ := fetch_reserved_keeps hfetch
    exact traceOrdered_of_trace_eq htrace hs

end Sys2Proof.Proofs
end

section
/-! The encoding family (30_encoding.md): the decoder read off once from its table (R30), the step on a reserved selector (R33),
and request frames (R35). -/

namespace Sys2Proof.Proofs

open Sys2Proof.Machine Sys2Proof.Stmt

/-! ### Decoding what was encoded -/

/-- The decoder undoes the encoder's choice of fields, row by row of R30. -/
@[simp] theorem decode_instr_fields (i : Instr) : i.fields.decode = .ok i := by cases i <;> rfl

theorem decode_encode (i : Instr) : decode (encode i) = .ok i := by
  rw [decode, encode, ReqFields.request_fields, decode_instr_fields]

/-- A request is decoded from its bytes as it is from its word (log 20). -/
theorem decodeBytes_toBytes (r : Request) : decodeBytes r.toBytes = decode r := by
  rw [decodeBytes, Request.ofBytes_toBytes]

/-- Settles O6: packing loses no field of the request, its bytes lose no bit of it, and the fields select their row. -/
theorem decodeEncodeAgree : Obligations.DecodeEncodeAgree :=
  fun i => ⟨decode_encode i, (decodeBytes_toBytes _).trans (decode_encode i)⟩

/-! ### Selectors -/

theorem opsel_not_reserved (i : Instr) : ¬ reservedSelector i.opsel := by
  cases i <;> simp [reservedSelector, Instr.opsel]

/-- The decoder keeps the selector, and takes the byte list of the request or none (R30, R31). -/
theorem decode_ok {q : ReqFields} {i : Instr} (h : q.decode = .ok i) :
    i.opsel = q.opsel ∧ (i.dataBytes = q.data ∨ i.dataBytes = []) := by
  unfold ReqFields.decode at h
  split at h <;> cases h <;> rename_i hsel <;>
    exact ⟨BitVec.eq_of_toNat_eq hsel.symm, by simp [Instr.dataBytes]⟩

/-- The selectors without a row are the reserved ones. -/
theorem reservedSelector_of_decode_error {q : ReqFields} {e : Reject} (h : q.decode = .error e) :
    reservedSelector q.opsel := by
  unfold ReqFields.decode at h
  split at h <;> cases h
  simp only [reservedSelector, BitVec.le_def, ← BitVec.toNat_inj, BitVec.toNat_ofNat, imp_false] at *
  omega

theorem decode_of_reserved {q : ReqFields} (h : reservedSelector q.opsel) : q.decode = .error (.reserved q.opsel) := by
  cases hdecode : q.decode with
  | ok i =>
    obtain ⟨hsel, -⟩ := decode_ok hdecode
    exact absurd (hsel ▸ h) (opsel_not_reserved i)
  | error e => rw [ReqFields.decode_error hdecode]

theorem decode_setReady {q : ReqFields} (h : q.opsel = 0x16#8) : q.decode = .ok .setReady := by
  rw [ReqFields.decode, h]
  rfl

/-- Settles O7: the decoder rejects exactly the reserved selectors, and what it accepts keeps selector and byte list. -/
theorem everySelectorDecodes : Obligations.EverySelectorDecodes := by
  intro r
  cases hdecode : r.fields.decode with
  | error e =>
    exact .inl ⟨reservedSelector_of_decode_error hdecode, hdecode.trans (congrArg _ (ReqFields.decode_error hdecode))⟩
  | ok i =>
    obtain ⟨hsel, hdata⟩ := decode_ok hdecode
    refine .inr ⟨hsel ▸ opsel_not_reserved i, i, hdecode, hsel, fun hwf => ?_⟩
    rcases hdata with hdata | hdata
    · rwa [Instr.WellFormed, hdata]
    · simp [Instr.WellFormed, hdata]

/-! ### The step on a reserved selector -/

theorem fetch_accept {s : State} {r : Request} {rest : List Request} (hready : reqReady s = true)
    (hreq : s.requests = r :: rest) : fetch s = fetchedOf r.fields (accept r rest s) := by
  rw [fetch_ready hready, hreq]

theorem fetchedOf_reserved {q : ReqFields} (h : reservedSelector q.opsel) (s : State) :
    fetchedOf q s = .reserved q.opsel s := by
  simp [fetchedOf, decode_of_reserved h]

/-- A selector without a row and SET_READY end alike: the request is accepted and UnsupportedOp raised (R33). -/
theorem step_unsupported {s : State} {r : Request} {rest : List Request} (hready : reqReady s = true)
    (hreset : resetAsserted s = false) (hreq : s.requests = r :: rest)
    (hsel : reservedSelector r.fields.opsel ∨ r.fields.opsel = 0x16#8) :
    step s = .next (tick (raise (.unsupported r.fields.opsel) (accept r rest s))) := by
  have hfetch := fetch_accept hready hreq
  rcases hsel with hsel | hsel
  · rw [fetchedOf_reserved hsel] at hfetch
    exact step_reserved hreset hfetch
  · rw [fetchedOf_ok (decode_setReady hsel)] at hfetch
    rw [step_run hreset hfetch, hsel]
    rfl

/-- Settles O8: what acceptance and `raise` write is the state the statement writes out. -/
theorem reservedSelectorsRefused : Obligations.ReservedSelectorsRefused :=
  fun _ _ _ hready hreset hreq hsel => step_unsupported hready hreset hreq hsel

/-- Settles O5: each word is decoded by evaluation. -/
theorem decodesSampleWords : Obligations.DecodesSampleWords :=
  ⟨rfl, rfl, rfl, rfl, rfl, rfl, rfl, rfl, rfl⟩

/-! ### Request frames -/

/-- A frame of at most one argument word is the one R35 writes out. -/
theorem frame_toList (cfg : Config) (c : Command) (arg : Option Word) :
    frame cfg c arg.toList = frameOf cfg (cfg.cmdAddr.get c) arg := by
  cases arg <;> rfl

/-- Settles O30: the bytes are `frame_toList`, their number is `frame_length`, and the catalog has at most one argument word. -/
theorem requestFrames : Obligations.RequestFrames := by
  intro cfg c v
  refine ⟨frame_toList cfg c none, frame_toList cfg c (some v), fun hcrc => ?_, fun hcrc => ?_, fun a args hargs => ?_⟩
  · simp [frame_length, hcrc]
  · simp [frame_length, hcrc]
  · rw [validate_length hargs]
    exact argWords_le_maxArgWords c

end Sys2Proof.Proofs
end

section
/-! The checksum family (40_checksum.md): the shift register is linear over GF(2) and loses no information, which gives the
polynomial remainder of R39 and the laws of R43; then the two operations (R40, R41). -/

namespace Sys2Proof.Proofs

open Sys2Proof.Machine Sys2Proof.Stmt

/-! ### The shift register is linear and loses nothing -/

theorem crcShift_xor (a b : Byte) : crcShift (a ^^^ b) = crcShift a ^^^ crcShift b := by
  have hmsb : (a ^^^ b).msb = (a.msb ^^ b.msb) := BitVec.msb_xor
  rw [crcShift, hmsb, BitVec.shiftLeft_xor_distrib]
  cases ha : a.msb <;> cases hb : b.msb
  case false.false => simp [crcShift, ha, hb]
  case false.true => simp [crcShift, ha, hb, BitVec.xor_assoc]
  case true.false => simp [crcShift, ha, hb]; ac_rfl
  case true.true =>
    have hpoly (x y p : Byte) : x ^^^ y = (x ^^^ p) ^^^ (y ^^^ p) := by
      rw [BitVec.xor_assoc, BitVec.xor_comm y, ← BitVec.xor_assoc p, BitVec.xor_self, BitVec.zero_xor]
    simpa [crcShift, ha, hb] using hpoly _ _ _

theorem crcShifts_xor (n : Nat) (a b : Byte) : crcShifts n (a ^^^ b) = crcShifts n a ^^^ crcShifts n b := by
  induction n generalizing a b with
  | zero => rfl
  | succ n ih => simp only [crcShifts, crcShift_xor, ih]

/-- The polynomial has a constant term: a bit shifted out at the top comes back at the bottom. -/
theorem eq_zero_of_crcShift_eq_zero : ∀ c : Byte, crcShift c = 0#8 → c = 0#8 := by decide

theorem crcShift_injective : Function.Injective crcShift := by
  intro a b hab
  have hzero : crcShift (a ^^^ b) = 0#8 := by rw [crcShift_xor, hab, BitVec.xor_self]
  exact BitVec.xor_eq_zero_iff.mp (eq_zero_of_crcShift_eq_zero _ hzero)

theorem crcShifts_injective (n : Nat) : Function.Injective (crcShifts n) := by
  induction n with
  | zero => exact fun _ _ h => h
  | succ n ih => exact ih.comp crcShift_injective

/-! ### CRC8 of a word -/

/-- Nothing is reflected and nothing is XORed in at the end (R39, log 4). -/
theorem crc8_eq_foldl (bytes : List Byte) : crc8 bytes = bytes.foldl crcByte Config.crcInit := by
  show bytes.foldl crcByte Config.crcInit ^^^ 0x00#8 = _
  exact BitVec.xor_zero

/-- The two bytes of a word, through the register from the initial load (R42). -/
theorem crc8Word_eq (w : Word) : crc8Word w = crcShifts 8 (crcShifts 8 (Config.crcInit ^^^ hiByte w) ^^^ loByte w) := by
  rw [crc8Word, crc8_eq_foldl]
  rfl

/-- What a data word adds to the register over GF(2): CRC8 without the initial load. -/
def dataSyndrome (w : Word) : Byte := crcShifts 8 (crcShifts 8 (hiByte w) ^^^ loByte w)

theorem crc8Word_xor (a b : Word) : crc8Word (a ^^^ b) = crc8Word a ^^^ dataSyndrome b := by
  rw [crc8Word_eq, crc8Word_eq]
  generalize Config.crcInit = init
  simp only [dataSyndrome, hiByte, loByte, BitVec.extractLsb'_xor, crcShifts_xor]
  ac_rfl

/-- Settles O16: affine, because the register is linear; balanced, because with the upper byte fixed CRC8 is an injective map
from bytes to bytes. -/
theorem checksumAffineAndBalanced : Obligations.ChecksumAffineAndBalanced := by
  refine ⟨fun a b => ?_, fun hi => ?_⟩
  · have hb : crc8Word b = crc8Word 0#16 ^^^ dataSyndrome b := by rw [← crc8Word_xor, BitVec.zero_xor]
    rw [crc8Word_xor, hb, BitVec.xor_assoc, BitVec.xor_comm (crc8Word 0#16), BitVec.xor_assoc, BitVec.xor_self,
      BitVec.xor_zero]
  · have hcrc (lo : Byte) : crc8Word (joinBytes hi lo) = crcShifts 8 (crcShifts 8 (Config.crcInit ^^^ hi) ^^^ lo) := by
      rw [crc8Word_eq, hiByte_joinBytes, loByte_joinBytes]
    have hinj : Function.Injective fun lo => crc8Word (joinBytes hi lo) := fun x y hxy => by
      simp only [hcrc] at hxy
      exact (BitVec.xor_right_inj _).mp (crcShifts_injective 8 hxy)
    exact (Function.bijective_iff_existsUnique _).mp (Finite.injective_iff_bijective.mp hinj)

/-! ### The polynomial remainder -/

theorem toNat_crcShift (c : Byte) : (crcShift c).toNat = bitStep c.toNat := by
  rw [crcShift, bitStep, BitVec.msb_eq_decide]
  by_cases htop : 128 ≤ c.toNat <;>
    simp [htop, Config.crcPoly, Nat.shiftLeft_eq, Nat.mul_comm]

theorem toNat_crcShifts (n : Nat) (c : Byte) : (crcShifts n c).toNat = bitStep^[n] c.toNat := by
  induction n generalizing c with
  | zero => rfl
  | succ n ih => rw [crcShifts, ih, toNat_crcShift, Function.iterate_succ_apply]

theorem toNat_crcByte (c d : Byte) : (crcByte c d).toNat = byteStep c.toNat d := by
  rw [byteStep, ← BitVec.toNat_xor, ← toNat_crcShifts]
  rfl

theorem toNat_foldl_crcByte (bytes : List Byte) (c : Byte) :
    (bytes.foldl crcByte c).toNat = bytes.foldl byteStep c.toNat := by
  induction bytes generalizing c with
  | nil => rfl
  | cons d bytes ih => rw [List.foldl_cons, List.foldl_cons, ih, toNat_crcByte]

/-- A shift is one step of the division by `x^8 + x^5 + x^4 + 1`, whose leading term takes the bit shifted out with it. -/
theorem toNat_crcShift_eq_reduce : ∀ c : Byte,
    (crcShift c).toNat = if c.toNat.testBit 7 then c.toNat <<< 1 ^^^ 0x131 else c.toNat <<< 1 := by decide

/-- `k` steps of the division shift the top eight coefficients as the engine does, whatever stands below them. -/
theorem gf2Rem_shift (k n : Nat) (c : Byte) {m : Nat} (hm : m < 2 ^ (n + 8)) :
    gf2Rem (n + k) ((c.toNat <<< (n + k)) ^^^ m) = gf2Rem n (((crcShifts k c).toNat <<< n) ^^^ m) := by
  induction k generalizing c with
  | zero => rfl
  | succ k ih =>
    have hbit : (c.toNat <<< (n + (k + 1)) ^^^ m).testBit (n + k + 8) = c.toNat.testBit 7 := by
      have hlow : m.testBit (n + k + 8) = false :=
        Nat.testBit_lt_two_pow (hm.trans_le (Nat.pow_le_pow_right (by decide) (by omega)))
      have hidx : n + k + 8 - (n + (k + 1)) = 7 := by omega
      have hge : n + (k + 1) ≤ n + k + 8 := by omega
      rw [Nat.testBit_xor, hlow, Nat.testBit_shiftLeft, hidx, decide_eq_true hge, Bool.true_and, Bool.xor_false]
    have hshift : c.toNat <<< (n + (k + 1)) = (c.toNat <<< 1) <<< (n + k) := by
      rw [← Nat.shiftLeft_add, Nat.add_comm 1, Nat.add_assoc]
    rw [crcShifts, ← ih, ← Nat.add_assoc, gf2Rem, Nat.add_assoc n k 1, hbit, toNat_crcShift_eq_reduce, hshift]
    split
    · rw [Nat.shiftLeft_xor_distrib]; ac_rfl
    · rfl

/-- The number of a word is made of its two bytes. -/
theorem toNat_eq_bytes (w : Word) : w.toNat = (hiByte w).toNat <<< 8 ^^^ (loByte w).toNat := by
  refine Nat.eq_of_testBit_eq fun i => ?_
  simp only [Nat.testBit_xor, Nat.testBit_shiftLeft, BitVec.testBit_toNat, hiByte, loByte, BitVec.getLsbD_extractLsb']
  rcases Nat.lt_or_ge i 8 with hlow | hhigh
  · simp [hlow, Nat.not_le.mpr hlow]
  · have hidx : 8 + (i - 8) = i := by omega
    have htop : w.getLsbD i = (decide (i - 8 < 8) && w.getLsbD i) := by
      rcases Nat.lt_or_ge i 16 with hin | hout
      · simp [show i - 8 < 8 by omega]
      · simp [BitVec.getLsbD_of_ge w i hout]
    simpa [hhigh, Nat.not_lt.mpr hhigh, hidx] using htop

/-- CRC8 is the remainder of `0xFF x^16 + w(x) x^8`: the division runs over the upper byte, then over the lower one. -/
theorem toNat_crc8Word (w : Word) : (crc8Word w).toNat = gf2Rem 16 ((0xFF <<< 16) ^^^ (w.toNat <<< 8)) := by
  have hlo : (loByte w).toNat <<< 8 < 2 ^ (8 + 8) := by
    have hlt := (loByte w).isLt
    rw [Nat.shiftLeft_eq]
    omega
  have hp : (0xFF <<< 16) ^^^ (w.toNat <<< 8) =
      ((Config.crcInit ^^^ hiByte w).toNat <<< (8 + 8)) ^^^ ((loByte w).toNat <<< 8) := by
    rw [toNat_eq_bytes, BitVec.toNat_xor, Nat.shiftLeft_xor_distrib, Nat.shiftLeft_xor_distrib, ← Nat.shiftLeft_add,
      Nat.xor_assoc]
    rfl
  have hupper := gf2Rem_shift 8 8 (Config.crcInit ^^^ hiByte w) hlo
  have hlower := gf2Rem_shift 8 0 (crcShifts 8 (Config.crcInit ^^^ hiByte w) ^^^ loByte w) (m := 0) (by decide)
  rw [hp, hupper, ← Nat.shiftLeft_xor_distrib, ← BitVec.toNat_xor]
  simp only [Nat.xor_zero, Nat.zero_add] at hlower
  rw [hlower, crc8Word_eq]
  rfl

/-- Settles O12: the fold and the division each go one shift at a time; the four values are evaluated. -/
theorem checksumIsRemainder : Obligations.ChecksumIsRemainder := by
  refine ⟨fun bytes => ?_, fun _ => rfl, toNat_crc8Word, by decide +kernel⟩
  rw [crc8_eq_foldl, toNat_foldl_crcByte]
  rfl

/-! ### Short errors -/

/-- What a pattern of flipped bits in a wire word adds to the comparison of checksum and check byte. -/
def syndrome (e : BitVec 24) : Byte := dataSyndrome (e.extractLsb' 8 16) ^^^ e.extractLsb' 0 8

theorem syndrome_xor (e f : BitVec 24) : syndrome (e ^^^ f) = syndrome e ^^^ syndrome f := by
  simp only [syndrome, dataSyndrome, hiByte, loByte, BitVec.extractLsb'_xor, crcShifts_xor]
  ac_rfl

/-- An error goes undetected exactly if its syndrome is 0, whatever the word. -/
theorem undetected_iff (w : Word) (e : BitVec 24) :
    crc8Word (((w ++ crc8Word w : BitVec (16 + 8)) ^^^ e).extractLsb' 8 16) =
      ((w ++ crc8Word w : BitVec (16 + 8)) ^^^ e).extractLsb' 0 8 ↔ syndrome e = 0#8 := by
  have hword : (w ++ crc8Word w : BitVec (16 + 8)).extractLsb' 8 16 = w := by
    rw [BitVec.extractLsb'_append_eq_of_le (by omega)]; simp
  have hcheck : (w ++ crc8Word w : BitVec (16 + 8)).extractLsb' 0 8 = crc8Word w := by
    rw [BitVec.extractLsb'_append_eq_of_add_le (by omega)]; simp
  rw [BitVec.extractLsb'_xor, BitVec.extractLsb'_xor, hword, hcheck, crc8Word_xor, BitVec.xor_right_inj, syndrome,
    BitVec.xor_eq_zero_iff]

/-- The wire word with bit `i` alone set. -/
def wireBit (i : Fin 24) : BitVec 24 := 1#24 <<< i.val

/-- The sum over GF(2) of the bits of a byte at the given places. -/
def bitSum (c : Byte) (places : List Nat) : Bool := places.foldr (fun i sum => c.getLsbD i ^^ sum) false

/-- The parity of a byte: whether the number of its bits that are set is odd. -/
def parity (c : Byte) : Bool := bitSum c (List.range 8)

theorem bitSum_xor (a b : Byte) (places : List Nat) :
    bitSum (a ^^^ b) places = (bitSum a places ^^ bitSum b places) := by
  induction places with
  | nil => rfl
  | cons i places ih =>
    simp only [bitSum, List.foldr_cons, BitVec.getLsbD_xor] at ih ⊢
    rw [ih, Bool.xor_assoc, Bool.xor_assoc, Bool.xor_left_comm (b.getLsbD i)]

theorem parity_xor (a b : Byte) : parity (a ^^^ b) = (parity a ^^ parity b) := bitSum_xor a b _

/-- The polynomial has an even number of terms, so a shift keeps the parity: that of a single flipped bit stays odd. -/
theorem parity_syndrome_wireBit : ∀ i, parity (syndrome (wireBit i)) = true := by decide +kernel

/-- No two flipped bits look alike: `x` has an order above 23 modulo the polynomial. -/
theorem syndrome_wireBit_injective : Function.Injective fun i => syndrome (wireBit i) := by
  unfold Function.Injective; decide +kernel

theorem getLsbD_wireBit (i : Fin 24) (n : Nat) : (wireBit i).getLsbD n = decide (i.val = n) := by
  rw [wireBit, ← BitVec.twoPow_eq, BitVec.getLsbD_twoPow, decide_eq_true i.isLt, Bool.true_and]

/-- Setting one more bit changes nothing, or flips that bit. -/
theorem or_wireBit (e : BitVec 24) (k : Fin 24) : e ||| wireBit k = e ∨ e ||| wireBit k = e ^^^ wireBit k := by
  cases hk : e.getLsbD k
  case true =>
    refine .inl (BitVec.eq_of_getLsbD_eq fun n _ => ?_)
    rw [BitVec.getLsbD_or, getLsbD_wireBit]
    by_cases hn : k.val = n
    · simp only [← hn, hk, decide_true, Bool.true_or]
    · simp [hn]
  case false =>
    refine .inr (BitVec.eq_of_getLsbD_eq fun n _ => ?_)
    rw [BitVec.getLsbD_or, BitVec.getLsbD_xor, getLsbD_wireBit]
    by_cases hn : k.val = n
    · simp only [← hn, hk, decide_true, Bool.false_or, Bool.false_xor]
    · simp [hn]

theorem syndrome_wireBit_ne_zero (i : Fin 24) : syndrome (wireBit i) ≠ 0#8 := fun h => by
  have hodd := parity_syndrome_wireBit i
  rw [h] at hodd
  exact absurd hodd (by decide)

/-- Two different flipped bits: their syndromes differ. -/
theorem syndrome_two_ne_zero {i j : Fin 24} (hij : i ≠ j) : syndrome (wireBit i ^^^ wireBit j) ≠ 0#8 := fun h => by
  rw [syndrome_xor, BitVec.xor_eq_zero_iff] at h
  exact hij (syndrome_wireBit_injective h)

/-- Three flipped bits: the parity is odd. -/
theorem syndrome_three_ne_zero (i j k : Fin 24) : syndrome (wireBit i ^^^ wireBit j ^^^ wireBit k) ≠ 0#8 := fun h => by
  have hodd := congrArg parity h
  rw [syndrome_xor, syndrome_xor, parity_xor, parity_xor] at hodd
  simp only [parity_syndrome_wireBit] at hodd
  exact absurd hodd (by decide)

/-- Settles O17: the pattern is one, two or three different bits flipped, each with a syndrome other than 0. -/
theorem shortErrorsDetected : Obligations.ShortErrorsDetected := by
  intro w i j k
  refine mt (undetected_iff w _).mp ?_
  show syndrome (wireBit i ||| wireBit j ||| wireBit k) ≠ 0#8
  have upToTwo (a b : Fin 24) : syndrome (wireBit a ||| wireBit b) ≠ 0#8 := by
    by_cases hab : a = b
    · rw [hab, BitVec.or_self]
      exact syndrome_wireBit_ne_zero b
    · rcases or_wireBit (wireBit a) b with hor | hor <;> rw [hor]
      · exact syndrome_wireBit_ne_zero a
      · exact syndrome_two_ne_zero hab
  rcases or_wireBit (wireBit i) j with hij | hij <;> rw [hij]
  · exact upToTwo i k
  · rcases or_wireBit (wireBit i ^^^ wireBit j) k with hk | hk <;> rw [hk]
    · exact hij ▸ upToTwo i j
    · exact syndrome_three_ne_zero i j k

/-! ### The operations -/

/-- The width check of R31, on the number of the operand. -/
theorem operandU16_eq (a : DWord) :
    operandU16 a = if 65536 ≤ a.toNat then .error (.validation .width) else .ok (BitVec.ofNat 16 a.toNat) := by
  have hhi : hiWord a = 0#16 ↔ ¬ 65536 ≤ a.toNat := by
    have hlt := a.isLt
    rw [← BitVec.toNat_inj, hiWord, BitVec.extractLsb'_toNat, Nat.shiftRight_eq_div_pow, BitVec.toNat_ofNat]
    omega
  have hlo : loWord a = BitVec.ofNat 16 a.toNat := rfl
  rw [operandU16, hlo]
  simp only [hhi, ite_not]

theorem operandU16_setWidth (w : Word) : operandU16 (w.setWidth 32) = .ok w := by
  have hw : (w.setWidth 32).toNat = w.toNat := BitVec.toNat_setWidth_of_le (by decide)
  rw [operandU16_eq, hw, if_neg (Nat.not_le.mpr w.isLt), BitVec.ofNat_toNat, BitVec.setWidth_eq]

/-- An operation on a u16 operand: the width check, then one use of the engine and a result (R40, R41). -/
def onWord (f : Word → Result) (a : DWord) (s : State) : Step :=
  match operandU16 a with
  | .error e => .next (raise e s)
  | .ok w => .next (ret (f w) (crcPass w s))

theorem exec_crc8 (a : DWord) (s : State) : exec (.crc8 a) s = onWord (fun w => .u8 (crc8Word w)) a s := rfl

theorem exec_verify (a : DWord) (c : Byte) (s : State) :
    exec (.verify a c) s = onWord (fun w => .bool (crc8Word w == c)) a s := rfl

/-- The two ways out of such an operation, written out. -/
theorem onWord_eq (f : Word → Result) (a : DWord) (s : State) :
    onWord f a s = .next
      (if 65536 ≤ a.toNat then raised 0x01#8 (.cause .width) s
       else returned (f (BitVec.ofNat 16 a.toNat)) { s with crcreg := crc8Word (BitVec.ofNat 16 a.toNat) }) := by
  rw [onWord, operandU16_eq]
  by_cases hwide : 65536 ≤ a.toNat
  · rw [if_pos hwide, if_pos hwide]
    rfl
  · rw [if_neg hwide, if_neg hwide]
    rfl

/-- Settles O13: past the width check, CRC8 is one use of the engine. -/
theorem crc8Operation : Obligations.Crc8Operation := by
  intro a s
  rw [exec_crc8, onWord_eq]

/-- Settles O14: past the width check, VERIFY is one use of the engine and a comparison. -/
theorem verifyOperation : Obligations.VerifyOperation := by
  intro a c s
  rw [exec_verify, onWord_eq]
  rfl

/-- VERIFY of a word that fits its operand. -/
theorem exec_verify_setWidth (w : Word) (c : Byte) (s : State) :
    exec (.verify (w.setWidth 32) c) s = .next (ret (.bool (crc8Word w == c)) (crcPass w s)) := by
  rw [exec_verify, onWord, operandU16_setWidth]

/-- Settles O15: VERIFY answers whether the check byte is the checksum, and a flipped bit makes it another byte. -/
theorem oneCheckByteVerifies : Obligations.OneCheckByteVerifies := by
  intro w s
  have verifies (c : Byte) :
      (∃ t, exec (.verify (w.setWidth 32) c) s = .next t ∧ t.res = some (.bool true)) ↔ c = crc8Word w := by
    simp [exec_verify_setWidth, eq_comm (a := c)]
  have hflip (bit : Fin 8) : (crc8Word w == crc8Word w ^^^ (1#8 <<< bit.val)) = false := by
    have hbit : ∀ bit : Fin 8, 1#8 <<< bit.val ≠ 0#8 := by decide
    rw [beq_eq_false_iff_ne, ne_comm]
    simpa using hbit bit
  refine ⟨?_, ⟨_, exec_verify_setWidth w _ s, rfl, ?_⟩, fun bit => ⟨_, exec_verify_setWidth w _ s, rfl, ?_⟩⟩
  · simp only [verifies, existsUnique_eq]
  · simp
  · simp [hflip]

end Sys2Proof.Proofs
end

section
/-! The word codec family (41_word_codec.md): what `dec_words` finds, wire word by wire word (R46); which byte lists it accepts
(R54); then the operations (R47 to R53) and their outcomes (R55). -/

namespace Sys2Proof.Proofs

open Sys2Proof.Machine Sys2Proof.Stmt

/-! ### `dec_words` by indices -/

/-- A list that holds a complete wire word begins with one. -/
theorem exists_wireWord {bytes : List Byte} (h : 0 < bytes.length / 3) : ∃ x y c rest, bytes = x :: y :: c :: rest := by
  match bytes, h with
  | [], h | [_], h | [_, _], h => simp at h
  | x :: y :: c :: rest, _ => exact ⟨x, y, c, rest, rfl⟩

theorem length_div_wireWord (x y c : Byte) (rest : List Byte) :
    (x :: y :: c :: rest).length / 3 = rest.length / 3 + 1 := by
  simp only [List.length_cons]
  omega

theorem wordAt_zero (x y c : Byte) (rest : List Byte) : wordAt (x :: y :: c :: rest) 0 = joinBytes x y := rfl

theorem wordAt_succ (x y c : Byte) (rest : List Byte) (k : Nat) :
    wordAt (x :: y :: c :: rest) (k + 1) = wordAt rest k := rfl

theorem badAt_zero {x y c : Byte} {rest : List Byte} :
    badAt (x :: y :: c :: rest) 0 ↔ crc8Word (joinBytes x y) ≠ c := Iff.rfl

theorem badAt_succ {x y c : Byte} {rest : List Byte} {k : Nat} :
    badAt (x :: y :: c :: rest) (k + 1) ↔ badAt rest k := Iff.rfl

theorem not_badAt_zero {x y c : Byte} {rest : List Byte} :
    ¬ badAt (x :: y :: c :: rest) 0 ↔ crc8Word (joinBytes x y) = c := not_not

/-- The loop stops at the first wire word that fails, with its index and its checksum (R46). -/
theorem verifyFrom_of_first_bad {bytes : List Byte} {k : Nat} (hk : k < bytes.length / 3) (hbad : badAt bytes k)
    (hgood : ∀ j, j < k → ¬ badAt bytes j) (i : Nat) (crc : Byte) (widx : Nat) :
    verifyFrom i crc widx bytes = ⟨crc8Word (wordAt bytes k), i + k, some (i + k)⟩ := by
  induction k generalizing bytes i crc widx with
  | zero =>
    obtain ⟨x, y, c, rest, rfl⟩ := exists_wireWord hk
    exact verifyFrom_bad (badAt_zero.mp hbad) i crc widx rest
  | succ k ih =>
    obtain ⟨x, y, c, rest, rfl⟩ := exists_wireWord (Nat.zero_lt_of_lt hk)
    have hfirst : crc8Word (joinBytes x y) = c := not_badAt_zero.mp (hgood 0 k.succ_pos)
    have hrest : k < rest.length / 3 := by rw [length_div_wireWord] at hk; omega
    have hlater (j : Nat) (hj : j < k) : ¬ badAt rest j := mt badAt_succ.mpr (hgood (j + 1) (Nat.succ_lt_succ hj))
    rw [verifyFrom_good hfirst, ih hrest (badAt_succ.mp hbad) hlater, wordAt_succ, Nat.add_assoc, Nat.add_comm 1]

/-- Without a complete wire word nothing is checked. -/
theorem verifyFrom_of_no_word {bytes : List Byte} (h : bytes.length / 3 = 0) (i : Nat) (crc : Byte) (widx : Nat) :
    verifyFrom i crc widx bytes = ⟨crc, widx, none⟩ := by
  match bytes, h with
  | [], _ => rfl
  | [_], _ => rfl
  | [_, _], _ => rfl
  | x :: y :: c :: rest, h => rw [length_div_wireWord] at h; omega

/-- If every complete wire word is good, the last one leaves its index and its checksum (log 13). -/
theorem verifyFrom_of_all_good {bytes : List Byte} {m : Nat} (hm : bytes.length / 3 = m + 1)
    (hgood : ∀ k, k < m + 1 → ¬ badAt bytes k) (i : Nat) (crc : Byte) (widx : Nat) :
    verifyFrom i crc widx bytes = ⟨crc8Word (wordAt bytes m), i + m, none⟩ := by
  induction m generalizing bytes i crc widx with
  | zero =>
    obtain ⟨x, y, c, rest, rfl⟩ := exists_wireWord (bytes := bytes) (by omega)
    have hfirst : crc8Word (joinBytes x y) = c := not_badAt_zero.mp (hgood 0 Nat.one_pos)
    have hrest : rest.length / 3 = 0 := by rw [length_div_wireWord] at hm; omega
    rw [verifyFrom_good hfirst, verifyFrom_of_no_word hrest, wordAt_zero, hfirst, Nat.add_zero]
  | succ m ih =>
    obtain ⟨x, y, c, rest, rfl⟩ := exists_wireWord (bytes := bytes) (by omega)
    have hfirst : crc8Word (joinBytes x y) = c := not_badAt_zero.mp (hgood 0 (by omega))
    have hrest : rest.length / 3 = m + 1 := by rw [length_div_wireWord] at hm; omega
    have hlater (k : Nat) (hk : k < m + 1) : ¬ badAt rest k := mt badAt_succ.mpr (hgood (k + 1) (Nat.succ_lt_succ hk))
    rw [verifyFrom_good hfirst, ih hrest hlater, wordAt_succ, Nat.add_assoc, Nat.add_comm 1]

theorem verifyFrom_failed_of_all_good {bytes : List Byte} (hgood : ∀ k, k < bytes.length / 3 → ¬ badAt bytes k)
    (i : Nat) (crc : Byte) (widx : Nat) : (verifyFrom i crc widx bytes).failed = none := by
  cases hm : bytes.length / 3 with
  | zero => rw [verifyFrom_of_no_word hm]
  | succ m => rw [verifyFrom_of_all_good hm (hm ▸ hgood)]

/-- The data words are those at the indices of the complete wire words. -/
theorem unpackWords_eq_map_wordAt (bytes : List Byte) :
    unpackWords bytes = (List.range (bytes.length / 3)).map (wordAt bytes) := by
  match bytes with
  | [] => rfl
  | [_] => simp [unpackWords]
  | [_, _] => simp [unpackWords]
  | x :: y :: c :: rest =>
    rw [length_div_wireWord, List.range_succ_eq_map, List.map_cons, List.map_map, unpackWords,
      unpackWords_eq_map_wordAt rest]
    rfl

theorem decWords_of_failed {bytes : List Byte} {k : Nat}
    (h : (verifyFrom 0 Config.crcInit 0 bytes).failed = some k) (n : Nat) : decWords bytes n = .error (.checksum k) := by
  rw [decWords, h]

theorem decWords_of_not_failed {bytes : List Byte} (h : (verifyFrom 0 Config.crcInit 0 bytes).failed = none) (n : Nat) :
    decWords bytes n =
      if bytes.length = 3 * n then .ok (unpackWords bytes) else .error (.decode n bytes.length) := by
  rw [decWords, h]
  rfl

/-- Settles O18: the loop ends at the first word that fails, or has gone over them all. -/
theorem decWordsByIndex : Obligations.DecWordsByIndex := by
  refine fun bytes n s => ⟨fun k hk hbad hgood => ?_, fun hgood => ⟨?_, fun hpos => ?_, fun hzero => ?_⟩⟩
  · have hverify := verifyFrom_of_first_bad hk hbad hgood 0
    simp only [Nat.zero_add] at hverify
    refine ⟨decWords_of_failed (by rw [hverify]) n, ?_, ?_⟩
    · rw [afterVerify_widx, hverify]
    · rw [afterVerify_crcreg, hverify]
  · rw [decWords_of_not_failed (verifyFrom_failed_of_all_good hgood _ _ _), unpackWords_eq_map_wordAt]
    by_cases hlen : bytes.length = 3 * n
    · rw [if_pos hlen, if_pos hlen, hlen, Nat.mul_div_cancel_left n (by decide)]
    · rw [if_neg hlen, if_neg hlen]
  · obtain ⟨m, hm⟩ := Nat.exists_eq_add_one.mpr hpos
    rw [afterVerify_widx, afterVerify_crcreg, verifyFrom_of_all_good hm (hm ▸ hgood), hm]
    exact ⟨Nat.zero_add m, rfl⟩
  · rw [afterVerify_widx, afterVerify_crcreg, verifyFrom_of_no_word hzero]
    exact ⟨rfl, rfl⟩

/-! ### One corrupted check byte -/

theorem wires_eq_flatMap (ws : List Word) : wires ws = ws.flatMap wireOf := by
  induction ws with
  | nil => rfl
  | cons w ws ih => rw [wires, ih]; rfl

/-- Up to the corrupted byte every wire word is good, and the one it belongs to fails. -/
theorem verifyFrom_set_check {ws : List Word} {k : Nat} {w : Word} {b : Byte} (hw : ws[k]? = some w)
    (hb : b ≠ crc8Word w) (i : Nat) (crc : Byte) (widx : Nat) :
    (verifyFrom i crc widx ((wires ws).set (3 * k + 2) b)).failed = some (i + k) := by
  induction k generalizing ws i crc widx with
  | zero =>
    cases ws with
    | nil => simp at hw
    | cons v ws =>
      obtain rfl : v = w := by simpa using hw
      have hset : (wires (v :: ws)).set (3 * 0 + 2) b = hiByte v :: loByte v :: b :: wires ws := rfl
      have hfails : crc8Word (joinBytes (hiByte v) (loByte v)) ≠ b := by simpa using hb.symm
      rw [hset, verifyFrom_bad hfails]
      rfl
  | succ k ih =>
    cases ws with
    | nil => simp at hw
    | cons v ws =>
      have hset : (wires (v :: ws)).set (3 * (k + 1) + 2) b =
          hiByte v :: loByte v :: crc8Word v :: (wires ws).set (3 * k + 2) b := rfl
      rw [hset, verifyFrom_good (by simp), ih (by simpa using hw), Nat.add_assoc, Nat.add_comm 1]

theorem operandCommand_selector (c : Command) : operandCommand c.selector = .ok c := by cases c <;> rfl

/-- DEFRAME of a command of the catalog is the shared end of every decode (R72). -/
theorem exec_deframe_selector (c : Command) (bytes : List Byte) (s : State) :
    exec (.deframe c.selector bytes) s =
      .next (finishDecode bytes (respWords c) (decodeResult c) (loadRx bytes s)) := by
  simp only [exec, execDeframe, operandCommand_selector]

/-- A frame that `dec_words` rejects ends with that error, whatever type was to be made of its words. -/
theorem finishDecode_of_error {bytes : List Byte} {n : Nat} {e : Error} (h : decWords bytes n = .error e)
    (typed : List Word → Result) (s : State) : finishDecode bytes n typed s = raise e (afterVerify bytes s) := by
  rw [finishDecode, h]
  rfl

/-- Settles O25: the corrupted word is the first that fails, and DEFRAME raises what `dec_words` does. -/
theorem corruptedCheckByteNamed : Obligations.CorruptedCheckByteNamed := by
  intro ws k b w hw hb
  have hfailed := verifyFrom_set_check hw hb 0 Config.crcInit 0
  rw [Nat.zero_add, wires_eq_flatMap] at hfailed
  have hdec := decWords_of_failed hfailed
  refine ⟨hdec, fun c s => ⟨_, exec_deframe_selector c _ s, ?_⟩⟩
  rw [finishDecode_of_error (hdec _)]
  exact ⟨rfl, rfl, rfl⟩

/-! ### The byte lists that `dec_words` accepts -/

/-- Whole wire words that verify are the wire words of what they unpack to. -/
theorem wires_unpackWords {bytes : List Byte} {k : Nat} {crc : Byte} {widx : Nat}
    (hgood : (verifyFrom k crc widx bytes).failed = none) (hlen : bytes.length % 3 = 0) :
    wires (unpackWords bytes) = bytes := by
  match bytes with
  | [] => rfl
  | [_] => simp at hlen
  | [_, _] => simp at hlen
  | x :: y :: c :: rest =>
    by_cases hc : crc8Word (joinBytes x y) = c
    · rw [verifyFrom_good hc] at hgood
      have hrest : rest.length % 3 = 0 := by simp only [List.length_cons] at hlen; omega
      simp [unpackWords, hc, wires_unpackWords hgood hrest]
    · simp [verifyFrom_bad hc] at hgood

/-- `dec_words(L, n)` gives exactly the words that `L` is the wire words of (R45, R46, R54). -/
theorem decWords_eq_ok_iff {bytes : List Byte} {n : Nat} {ws : List Word} :
    decWords bytes n = .ok ws ↔ bytes = wires ws ∧ ws.length = n := by
  constructor
  · intro h
    have hn := decWords_length h
    cases hfailed : (verifyFrom 0 Config.crcInit 0 bytes).failed with
    | some k => simp [decWords_of_failed hfailed] at h
    | none =>
      rw [decWords_of_not_failed hfailed] at h
      split at h <;> cases h
      rename_i hlen
      exact ⟨(wires_unpackWords hfailed (by omega)).symm, hn⟩
  · rintro ⟨rfl, rfl⟩
    rw [decWords_of_not_failed (verifyFrom_wires _ _ _ _), if_pos (wires_length ws), unpackWords_wires]

/-- If only the words `vs` have the typed value `r`, only their wire words decode to it. -/
theorem decWords_map_eq_ok_iff {bytes : List Byte} {vs : List Word} {typed : List Word → Result} {r : Result}
    (h : ∀ ws : List Word, ws.length = vs.length → (typed ws = r ↔ ws = vs)) :
    (decWords bytes vs.length).map typed = .ok r ↔ bytes = wires vs := by
  constructor
  · intro hr
    cases hdec : decWords bytes vs.length with
    | error e => simp [hdec, Except.map] at hr
    | ok ws =>
      obtain ⟨hbytes, hlen⟩ := decWords_eq_ok_iff.mp hdec
      have htyped : typed ws = r := by simpa [hdec, Except.map] using hr
      rw [hbytes, (h ws hlen).mp htyped]
  · rintro rfl
    rw [decWords_eq_ok_iff.mpr ⟨rfl, rfl⟩]
    exact congrArg Except.ok ((h vs rfl).mpr rfl)

theorem nthWord_eq_iff {ws : List Word} (hlen : ws.length = 1) (v : Word) : nthWord ws 0 = v ↔ ws = [v] := by
  obtain ⟨w, rfl⟩ := List.length_eq_one_iff.mp hlen
  simp [nthWord]

theorem joinWords_nthWord_eq_iff {ws : List Word} (hlen : ws.length = 2) (v : DWord) :
    joinWords (nthWord ws 0) (nthWord ws 1) = v ↔ ws = [hiWord v, loWord v] := by
  obtain ⟨hi, lo, rfl⟩ := List.length_eq_two.mp hlen
  constructor
  · rintro rfl
    simp [nthWord]
  · rintro h
    simp [h, nthWord]

/-! ### Encoding and decoding undo each other -/

/-- `enc` encodes a value, in every configuration as `bytes`, and `dec` returns the value `v` for these bytes alone. -/
structure CodecPair (enc : Instr) (dec : List Byte → Instr) (v : Result) (bytes : List Byte) : Prop where
  enc_pure : enc.isPure = true
  dec_pure : ∀ L, (dec L).isPure = true
  encodes : ∀ cfg, pureOutcome cfg enc = .ok (.bytes bytes)
  decodes : ∀ cfg L, pureOutcome cfg (dec L) = .ok v ↔ L = bytes

theorem codecPair_u16 (v : Word) : CodecPair (.encU16 (v.setWidth 32)) .decU16 (.u16 v) (wires [v]) where
  enc_pure := rfl
  dec_pure _ := rfl
  encodes _ := by rw [pureOutcome, operandU16_setWidth]; rfl
  decodes _ _ := decWords_map_eq_ok_iff (vs := [v]) fun ws hlen => by simp [nthWord_eq_iff hlen]

theorem codecPair_u32 (v : DWord) : CodecPair (.encU32 v) .decU32 (.u32 v) (wires [hiWord v, loWord v]) where
  enc_pure := rfl
  dec_pure _ := rfl
  encodes _ := rfl
  decodes _ _ := decWords_map_eq_ok_iff (vs := [hiWord v, loWord v]) fun ws hlen => by
    simp [joinWords_nthWord_eq_iff hlen]

theorem codecPair_f32 (v : DWord) : CodecPair (.encF32 v) .decF32 (.b32 v) (wires [hiWord v, loWord v]) where
  enc_pure := rfl
  dec_pure _ := rfl
  encodes _ := rfl
  decodes _ _ := decWords_map_eq_ok_iff (vs := [hiWord v, loWord v]) fun ws hlen => by
    simp [joinWords_nthWord_eq_iff hlen]

/-- A pure operation whose outcome is a value returns it. -/
theorem exec_of_pureOutcome_ok {i : Instr} {s : State} {v : Result} (hi : i.isPure = true)
    (h : pureOutcome s.cfg i = .ok v) : ∃ t, exec i s = .next t ∧ t.resValid = true ∧ t.res = some v := by
  obtain ⟨u, -, hexec⟩ := exec_pure (.inl hi) s
  rw [h] at hexec
  exact ⟨_, hexec, rfl, rfl⟩

/-- The valid result of a pure operation is its outcome. -/
theorem pureOutcome_of_exec {i : Instr} {s t : State} {v : Result} (hi : i.isPure = true) (hexec : exec i s = .next t)
    (hvalid : t.resValid = true) (hres : t.res = some v) : pureOutcome s.cfg i = .ok v := by
  obtain ⟨u, -, hexec'⟩ := exec_pure (.inl hi) s
  obtain rfl : finish (pureOutcome s.cfg i) u = t := by simpa [hexec'] using hexec
  cases ho : pureOutcome s.cfg i with
  | error e => simp [ho] at hvalid
  | ok r => simpa [ho] using hres

theorem CodecPair.encode_returns {enc : Instr} {dec : List Byte → Instr} {v : Result} {bytes : List Byte}
    (h : CodecPair enc dec v bytes) (s : State) : ∃ t, exec enc s = .next t ∧ t.resValid = true := by
  obtain ⟨t, ht, hvalid, -⟩ := exec_of_pureOutcome_ok h.enc_pure (h.encodes s.cfg)
  exact ⟨t, ht, hvalid⟩

theorem CodecPair.decode_encode {enc : Instr} {dec : List Byte → Instr} {v : Result} {bytes : List Byte}
    (h : CodecPair enc dec v bytes) (s s' : State) :
    ∃ L t t', exec enc s = .next t ∧ t.res = some (.bytes L) ∧ t.resValid = true ∧ exec (dec L) s' = .next t' ∧
      t'.resValid = true ∧ t'.res = some v := by
  obtain ⟨t, ht, hvalid, hres⟩ := exec_of_pureOutcome_ok h.enc_pure (h.encodes s.cfg)
  obtain ⟨t', ht', hdecoded⟩ := exec_of_pureOutcome_ok (h.dec_pure bytes) ((h.decodes s'.cfg bytes).mpr rfl)
  exact ⟨bytes, t, t', ht, hres, hvalid, ht', hdecoded⟩

theorem CodecPair.encode_decode {enc : Instr} {dec : List Byte → Instr} {v : Result} {bytes L : List Byte} {s t : State}
    (h : CodecPair enc dec v bytes) (s' : State) (hexec : exec (dec L) s = .next t) (hvalid : t.resValid = true)
    (hres : t.res = some v) : ∃ t', exec enc s' = .next t' ∧ t'.res = some (.bytes L) := by
  obtain rfl : L = bytes := (h.decodes s.cfg L).mp (pureOutcome_of_exec (h.dec_pure L) hexec hvalid hres)
  obtain ⟨t', ht', -, hencoded⟩ := exec_of_pureOutcome_ok h.enc_pure (h.encodes s'.cfg)
  exact ⟨t', ht', hencoded⟩

/-- Settles O24: each encode operation and its decode operation are a pair. -/
theorem codecRoundTrips : Obligations.CodecRoundTrips :=
  ⟨fun s s' => ⟨fun v => (codecPair_u16 v).decode_encode s s', fun v => (codecPair_u32 v).decode_encode s s',
      fun v => (codecPair_f32 v).decode_encode s s'⟩,
    fun _ s' _ _ => ⟨fun v => (codecPair_u16 v).encode_decode s', fun v => (codecPair_u32 v).encode_decode s',
      fun v => (codecPair_f32 v).encode_decode s'⟩⟩

/-! ### The outcomes -/

/-- The count check of R31, on the number of the operand. -/
theorem operandCount_eq (b : Byte) :
    operandCount b = if 6 < b.toNat then .error (.validation .width) else .ok b.toNat := by
  rw [operandCount, ← ite_not]
  simp only [Nat.not_le]
  rfl

/-- The four decode operations of the codec. -/
def IsCodecDecode (i : Instr) : Prop :=
  ∃ bytes, i = .decU16 bytes ∨ i = .decU32 bytes ∨ i = .decF32 bytes ∨ ∃ n, i = .decWords n bytes

theorem isPure_of_isCodecDecode {i : Instr} (h : IsCodecDecode i) : i.isPure = true := by
  obtain ⟨bytes, rfl | rfl | rfl | ⟨n, rfl⟩⟩ := h <;> rfl

/-- The errors a decode operation can end in (R55). -/
def DecodeFailsWith (i : Instr) (e : Error) : Prop :=
  (∃ k, e = .checksum k) ∨ (∃ n len, e = .decode n len) ∨
    (e = .validation .width ∧ ∃ n bytes, i = .decWords n bytes ∧ 6 < n.toNat)

theorem decodeFailsWith_of_decWords {i : Instr} {bytes : List Byte} {n : Nat} {typed : List Word → Result} {e : Error}
    (h : (decWords bytes n).map typed = .error e) : DecodeFailsWith i e := by
  cases hdec : decWords bytes n with
  | ok ws => simp [hdec, Except.map] at h
  | error e' =>
    obtain rfl : e' = e := by simpa [hdec, Except.map] using h
    rcases decWords_error hdec with hchecksum | ⟨hdecode, -⟩
    · exact .inl hchecksum
    · exact .inr (.inl ⟨n, bytes.length, hdecode⟩)

theorem decodeFailsWith_of_pureOutcome {cfg : Config} {i : Instr} {e : Error} (hi : IsCodecDecode i)
    (h : pureOutcome cfg i = .error e) : DecodeFailsWith i e := by
  obtain ⟨bytes, rfl | rfl | rfl | ⟨n, rfl⟩⟩ := hi
  · exact decodeFailsWith_of_decWords h
  · exact decodeFailsWith_of_decWords h
  · exact decodeFailsWith_of_decWords h
  · simp only [pureOutcome, operandCount_eq] at h
    split at h
    case isTrue hwide =>
      cases h
      exact .inr (.inr ⟨rfl, n, bytes, rfl, hwide⟩)
    case isFalse => exact decodeFailsWith_of_decWords h

theorem WorkedOn.res {i : Instr} {s u : State} (h : WorkedOn i s u) : u.res = s.res := by
  obtain ⟨_, _, _, _, rfl, -⟩ := h
  rfl

/-- Settles O26: the encode operations have a value as their outcome; a decode operation ends in its outcome, and RES is among
the registers it does not work in. -/
theorem codecOutcomes : Obligations.CodecOutcomes := by
  refine ⟨fun v => (codecPair_u32 v).encode_returns, fun v => (codecPair_f32 v).encode_returns,
    fun v => (codecPair_u16 v).encode_returns, fun i s hi => ?_⟩
  obtain ⟨u, hu, hexec⟩ := exec_pure (.inl (isPure_of_isCodecDecode hi)) s
  refine ⟨_, hexec, ?_⟩
  cases ho : pureOutcome s.cfg i with
  | ok v => exact .inl ⟨rfl, rfl⟩
  | error e =>
    refine .inr ⟨rfl, hu.res, ?_⟩
    rcases decodeFailsWith_of_pureOutcome hi ho with ⟨k, rfl⟩ | ⟨n, len, rfl⟩ | ⟨rfl, hcount⟩
    · exact .inl ⟨k, rfl⟩
    · exact .inr (.inl ⟨n, len, rfl⟩)
    · exact .inr (.inr ⟨rfl, hcount⟩)

/-! ### The operations, as next states -/

theorem exec_encU16 (a : DWord) (s : State) : exec (.encU16 a) s = onWord (fun w => .bytes (wire w)) a s := rfl

theorem wire_eq_wireOf (w : Word) : wire w = wireOf w := rfl

/-- Settles O19: past the width check, ENC_U16 is one use of the engine; the three values are evaluated. -/
theorem encU16Operation : Obligations.EncU16Operation := by
  refine ⟨wire_eq_wireOf, fun a s => ?_, by decide +kernel⟩
  rw [exec_encU16, onWord_eq, wire_eq_wireOf]

/-- Settles O20: the state is the one `ret` leaves after two uses of the engine; the six values are evaluated. -/
theorem encU32AndF32Operations : Obligations.EncU32AndF32Operations :=
  ⟨fun _ _ => ⟨rfl, rfl⟩, by decide +kernel⟩

theorem raise_eq_raisedAs (e : Error) (s : State) : raise e s = raisedAs e s := by cases e <;> rfl

theorem finish_eq_ended (o : Except Error Result) (s : State) : finish o s = ended o s := by
  cases o with
  | ok v => rfl
  | error e => exact raise_eq_raisedAs e s

/-- Every decode of a request's bytes loads RXBUF, verifies it and ends with the outcome (log 12, 13). -/
theorem finishDecode_loadRx (bytes : List Byte) (n : Nat) (typed : List Word → Result) (s : State) :
    finishDecode bytes n typed (loadRx bytes s) = ended ((decWords bytes n).map typed) (checked bytes s) :=
  finish_eq_ended _ _

theorem exec_decU16 (bytes : List Byte) (s : State) :
    exec (.decU16 bytes) s = .next (ended ((decWords bytes 1).map fun ws => .u16 (word ws 0)) (checked bytes s)) :=
  congrArg _ (finishDecode_loadRx _ _ _ _)

theorem exec_decU32 (bytes : List Byte) (s : State) :
    exec (.decU32 bytes) s = .next (ended ((decWords bytes 2).map fun ws => .u32 (pair ws 0)) (checked bytes s)) :=
  congrArg _ (finishDecode_loadRx _ _ _ _)

theorem exec_decF32 (bytes : List Byte) (s : State) :
    exec (.decF32 bytes) s = .next (ended ((decWords bytes 2).map fun ws => .b32 (pair ws 0)) (checked bytes s)) :=
  congrArg _ (finishDecode_loadRx _ _ _ _)

theorem exec_decWords (b : Byte) (bytes : List Byte) (s : State) :
    exec (.decWords b bytes) s = .next
      (if 6 < b.toNat then raise (.validation .width) (loadRx bytes s)
       else ended ((decWords bytes b.toNat).map .words) (checked bytes s)) := by
  simp only [exec, execDecWords, operandCount_eq]
  by_cases hwide : 6 < b.toNat
  · simp only [if_pos hwide]
  · simp only [if_neg hwide, finishDecode_loadRx]

/-- Settles O21: the count check, then the outcome of `dec_words`; the corner cases of R50 are evaluated. -/
theorem decWordsOperation : Obligations.DecWordsOperation := by
  refine ⟨fun n bytes s => ?_, by decide +kernel⟩
  rw [exec_decWords]
  cases decWords bytes n.toNat <;> rfl

/-- Settles O22: the outcome of `dec_words`, for three bytes one comparison; the corner cases of R51 are evaluated. -/
theorem decU16Operation : Obligations.DecU16Operation := by
  refine ⟨fun bytes s => ?_, fun x y c => ?_, by decide +kernel⟩
  · rw [exec_decU16]
    cases decWords bytes 1 <;> rfl
  · change decWords [x, y, c] 1 = if crc8Word (joinBytes x y) = c then .ok [joinBytes x y] else .error (.checksum 0)
    by_cases hc : crc8Word (joinBytes x y) = c
    · rw [if_pos hc, decWords_of_not_failed (by rw [verifyFrom_good hc]; rfl)]
      rfl
    · rw [if_neg hc, decWords_of_failed (by rw [verifyFrom_bad hc])]

/-- Settles O23: the outcome of `dec_words`, its two words joined; the corner cases of R52 and R53 are evaluated. -/
theorem decU32AndF32Operations : Obligations.DecU32AndF32Operations := by
  refine ⟨fun bytes s => ?_, by decide +kernel⟩
  rw [exec_decU32, exec_decF32]
  cases decWords bytes 2 <;> exact ⟨rfl, rfl⟩

end Sys2Proof.Proofs
end

section
/-! The command catalog family (42_command_catalog.md): validation (R60 to R67) and that it comes before everything else (R61),
the typed results (R68, R69), then SERIALIZE and DEFRAME (R71, R72). -/

namespace Sys2Proof.Proofs

open Sys2Proof.Machine Sys2Proof.Stmt

/-! ### Validation -/

theorem pressureValid_iff {p : Word} : pressureValid p = true ↔ p.toNat = 0 ∨ 700 ≤ p.toNat ∧ p.toNat ≤ 1400 := by
  simp [pressureValid, Config.pressureDisable, Config.pressureMin, Config.pressureMax, BitVec.le_def, ← BitVec.toNat_inj]

theorem intervalValid_iff {v : Word} : intervalValid v = true ↔ 2 ≤ v.toNat ∧ v.toNat ≤ 1800 := by
  simp [intervalValid, Config.intervalMin, Config.intervalMax, BitVec.le_def]

theorem frcValid_iff {cfg : Config} {v : Word} :
    frcValid cfg v = true ↔ cfg.frcMin.toNat ≤ v.toNat ∧ v.toNat ≤ cfg.frcMax.toNat := by
  simp [frcValid, BitVec.le_def]

/-- A command without argument words takes the operand 0 alone (R67). -/
theorem validateNone_eq (a : DWord) :
    validateNone a = if a.toNat = 0 then .ok [] else .error (.validation .width) := by
  have hzero : a = 0#32 ↔ a.toNat = 0 := by simp [← BitVec.toNat_inj]
  simp only [validateNone, hzero]

/-- SET_ASC takes the operands 0 and 1, and sends them as they are (R67). -/
theorem validateAsc_eq (a : DWord) :
    validateAsc a = if a.toNat ≤ 1 then .ok [BitVec.ofNat 16 a.toNat] else .error (.validation .width) := by
  have hupper : a.extractLsb' 1 31 = 0#31 ↔ a.toNat ≤ 1 := by
    have hlt := a.isLt
    rw [← BitVec.toNat_inj, BitVec.extractLsb'_toNat, Nat.shiftRight_eq_div_pow, BitVec.toNat_ofNat]
    omega
  have hword (h : a.toNat ≤ 1) : ascWord (a.getLsbD 0) = BitVec.ofNat 16 a.toNat := by
    rw [← BitVec.testBit_toNat]
    interval_cases a.toNat <;> rfl
  simp only [validateAsc, hupper]
  by_cases h : a.toNat ≤ 1
  · rw [if_pos h, if_pos h, hword h]
  · rw [if_neg h, if_neg h]

/-- A u16 argument passes the width check and then the domain check, each on the number of the operand (R67). -/
theorem validateU16_eq {cfg : Config} {c : Command} {inDomain : Nat → Prop} [DecidablePred inDomain] {cause : Cause}
    (hdomain : ∀ v : Word, domainFault cfg c v = if inDomain v.toNat then none else some cause) (a : DWord) :
    validateU16 cfg c a = Except.mapError Error.validation
      (if a.toNat < 65536 then if inDomain a.toNat then .ok [BitVec.ofNat 16 a.toNat] else .error cause
        else .error .width) := by
  rw [validateU16, operandU16_eq]
  by_cases hwide : 65536 ≤ a.toNat
  · rw [if_pos hwide, if_neg (by omega)]
    rfl
  · have hfits : a.toNat < 65536 := by omega
    have hword : (BitVec.ofNat 16 a.toNat).toNat = a.toNat := by simpa using hfits
    simp only [if_neg hwide, if_pos hfits, hdomain, hword]
    by_cases hin : inDomain a.toNat
    · simp only [if_pos hin]
      rfl
    · simp only [if_neg hin]
      rfl

/-- `validate` is the table of R60 to R67, command by command. -/
theorem validate_eq_argsOf (cfg : Config) (c : Command) (a : DWord) :
    validate cfg c a = (argsOf cfg c a).mapError .validation := by
  have noArgument : validateNone a = Except.mapError Error.validation (if a.toNat = 0 then .ok [] else .error .width) := by
    rw [validateNone_eq, apply_ite (Except.mapError _)]
    rfl
  have unbounded (c : Command) (hdomain : ∀ v, domainFault cfg c v = none) : validateU16 cfg c a =
      Except.mapError Error.validation (if a.toNat < 65536 then .ok [BitVec.ofNat 16 a.toNat] else .error .width) := by
    simpa using validateU16_eq (inDomain := fun _ => True) (cause := .width) (by simpa using hdomain) a
  cases c
  case setAsc =>
    rw [argsOf, apply_ite (Except.mapError _)]
    exact validateAsc_eq a
  case setToff => exact unbounded .setToff fun _ => rfl
  case setAlt => exact unbounded .setAlt fun _ => rfl
  case setPressure =>
    exact validateU16_eq (c := .setPressure) (inDomain := fun v => v = 0 ∨ 700 ≤ v ∧ v ≤ 1400)
      (fun v => by simp only [domainFault, pressureValid_iff]) a
  case setInterval =>
    exact validateU16_eq (c := .setInterval) (inDomain := fun v => 2 ≤ v ∧ v ≤ 1800)
      (fun v => by simp only [domainFault, intervalValid_iff]) a
  case startCont =>
    exact validateU16_eq (c := .startCont) (inDomain := fun v => 2 ≤ v ∧ v ≤ 1800)
      (fun v => by simp only [domainFault, intervalValid_iff]) a
  case setFrc =>
    exact validateU16_eq (c := .setFrc) (inDomain := fun v => cfg.frcMin.toNat ≤ v ∧ v ≤ cfg.frcMax.toNat)
      (fun v => by simp only [domainFault, frcValid_iff]) a
  all_goals exact noArgument

/-- Settles O27: the table is `validate_eq_argsOf`, and the boundary values are evaluated. -/
theorem validateRule : Obligations.ValidateRule := by
  refine ⟨fun cfg c a => ?_, fun cfg => ⟨rfl, rfl, rfl, rfl, rfl, rfl, rfl, rfl, rfl, rfl⟩⟩
  rw [validate_eq_argsOf]
  cases argsOf cfg c a <;> rfl

/-! ### A failed validation -/

/-- VALIDATE of an operand outside the table raises the cause, and that is all it does (R75, R76). -/
theorem seqStep_invalid {c : Command} {a : DWord} {s : State} {cause : Cause} (hphase : s.phase = .validate)
    (hargs : argsOf s.cfg c a = .error cause) : seqStep c a s = .next (raise (.validation cause) s) := by
  simp only [seqStep, hphase, seqValidate, validate_eq_argsOf, hargs, Except.mapError]

/-- Acceptance of a catalog command starts its exchange (R74). -/
theorem step_accept_toInstr {c : Command} {a : DWord} {s : State} {r : Request} {rest : List Request}
    (hready : reqReady s = true) (hreset : resetAsserted s = false) (hreq : s.requests = r :: rest)
    (hdecode : decode r = .ok (c.toInstr a)) : step s = .next (tick (enter .validate (accept r rest s))) := by
  have hfetch : fetch s = .run (c.toInstr a) (accept r rest s) := by
    rw [fetch_accept hready hreq, fetchedOf_ok hdecode]
  rw [step_run hreset hfetch, exec_toInstr, seqStep_of_ready (s := accept r rest s) hready, thenTick_next]

/-- A step of a busy block without reset is the row of its latched command. -/
theorem step_busy_toInstr {c : Command} {a : DWord} {s : State} (hbusy : reqReady s = false)
    (hreset : resetAsserted s = false) (hdecode : s.req.decode = .ok (c.toInstr a)) :
    step s = thenTick (seqStep c a s) := by
  have hfetch : fetch s = .run (c.toInstr a) s := by rw [fetch_busy hbusy, fetchedOf_ok hdecode]
  rw [step_run hreset hfetch, exec_toInstr]

theorem step_invalid {c : Command} {a : DWord} {s : State} {cause : Cause} (hphase : s.phase = .validate)
    (hreset : resetAsserted s = false) (hdecode : s.req.decode = .ok (c.toInstr a))
    (hargs : argsOf s.cfg c a = .error cause) : step s = .next (tick (raise (.validation cause) s)) := by
  have hbusy : reqReady s = false := by simp [reqReady, hphase]
  rw [step_busy_toInstr hbusy hreset hdecode, seqStep_invalid hphase hargs, thenTick_next]

/-- Settles O28: acceptance writes only the latch and the outcome, and the row of VALIDATE only raises. -/
theorem validationBeforeBus : Obligations.ValidationBeforeBus := by
  refine ⟨fun c a s cause hphase hargs => ?_, ?_⟩
  · rw [exec_toInstr, seqStep_invalid hphase hargs]
    rfl
  · rintro c a s rest cause ⟨hready, r, hreq, hdecode⟩ hquiet hargs
    have hlater : ∀ i ∈ s.inputs.tail, i.reset = false := fun i hi => hquiet i (List.mem_of_mem_tail hi)
    have haccepted := step_accept_toInstr hready (resetAsserted_of_inputs hquiet) hreq hdecode
    have hrefused := step_invalid (s := tick (enter .validate (accept r rest s))) rfl
      (resetAsserted_of_inputs hlater) hdecode hargs
    exact ⟨_, runs_succ haccepted (runs_succ hrefused rfl), rfl, rfl, rfl, rfl, rfl, rfl, rfl, rfl⟩

/-! ### What SERIALIZE returns and the exchange sends -/

theorem seqStep_validated {c : Command} {a : DWord} {s : State} {args : List Word} (hphase : s.phase = .validate)
    (hval : validate s.cfg c a = .ok args) : seqStep c a s = .next (enter .encode { s with reqArgs := args }) := by
  simp only [seqStep, hphase, seqValidate, hval]

/-- ENCODE of a frame that fits stores it from index 0 (R77). -/
theorem seqStep_encode {c : Command} {a : DWord} {s : State} (hphase : s.phase = .encode)
    (hfits : (frame s.cfg c s.reqArgs).length ≤ Config.txCapacity) :
    seqStep c a s = .next (enter .transmit
      { crcPasses (frameWords s.cfg c s.reqArgs) s with
        txbuf := Memory.writeList s.txbuf 0 (frame s.cfg c s.reqArgs), txlen := (frame s.cfg c s.reqArgs).length }) := by
  have hwrite := txWrite_eq_ok (m := s.txbuf).mpr ⟨(Nat.zero_add _).trans_le hfits, rfl⟩
  simp only [seqStep, hphase, seqEncode, hwrite]

/-- TRANSMIT issues the BusWrite of the first TXLEN bytes of TXBUF (R78). -/
theorem seqStep_transmit_issue {c : Command} {a : DWord} {s : State} {bytes : List Byte} (hphase : s.phase = .transmit)
    (hout : s.outstanding = false) (hread : txRead s.txbuf 0 s.txlen = .ok bytes) :
    seqStep c a s = .next (issue (.write s.cfg.devAddr bytes) s) := by
  simp only [seqStep, hphase, seqTransmit, hout, hread, Bool.false_eq_true, if_false]

/-- What SERIALIZE answers is the frame of the validated arguments. -/
theorem frame_of_serialize {cfg : Config} {c : Command} {a : DWord} {bytes : List Byte}
    (h : pureOutcome cfg (.serialize c.selector a) = .ok (.bytes bytes)) :
    ∃ args, validate cfg c a = .ok args ∧ bytes = frame cfg c args := by
  simp only [pureOutcome, operandCommand_selector, Except.bind] at h
  cases hval : validate cfg c a with
  | error e => simp [hval, Except.map] at h
  | ok args => exact ⟨args, rfl, by simpa [hval, Except.map, eq_comm] using h⟩

/-- Settles O33: both are the frame of the validated arguments, and TXBUF reads back what ENCODE stored. -/
theorem serializeMatchesTransmit : Obligations.SerializeMatchesTransmit := by
  intro c a s t u bytes hexec hvalid hres hcfg hphase
  obtain ⟨args, hval, rfl⟩ := frame_of_serialize (pureOutcome_of_exec rfl hexec hvalid hres)
  rw [← hcfg] at hval ⊢
  have hfits : (frame u.cfg c args).length ≤ Config.txCapacity :=
    frame_fits u.cfg c ((validate_length hval).trans_le (argWords_le_maxArgWords c))
  have hread := txRead_writeList (m := u.txbuf) hfits
  simp only [exec_toInstr]
  exact ⟨_, _, _, seqStep_validated hphase hval, seqStep_encode rfl hfits, hread, seqStep_transmit_issue rfl rfl hread, rfl⟩

/-! ### Typed results -/

theorem decodeResult_of_no_words {c : Command} (h : respWords c = 0) (ws : List Word) : decodeResult c ws = .unit := by
  cases c
  case getFw | getReady | readMeas | getToff | getAlt => cases h
  all_goals rfl

/-- Settles O29: each row of R68 is evaluated, and a command without a response has no words to decode. -/
theorem decodeResultRule : Obligations.DecodeResultRule := by
  refine ⟨fun w => ⟨rfl, rfl, rfl, rfl⟩, fun _ _ _ _ _ _ => rfl, fun c hc => ?_, fun c bytes => ?_⟩
  · have hnone : ∀ c ∈ [Command.softReset, .startCont, .stopCont, .setInterval, .setToff, .setAlt, .setPressure, .setAsc,
        .setFrc], respWords c = 0 := by decide
    have hunit := decodeResult_of_no_words (hnone c hc)
    refine ⟨hunit [], ?_⟩
    rw [deframe, hnone c hc]
    exact congrArg Except.ok (hunit [])
  · rw [deframe]
    cases decWords bytes (respWords c) <;> rfl

/-! ### The operations of the framer -/

theorem ofSelector_selector (c : Command) : Command.ofSelector c.selector = some c := by cases c <;> rfl

theorem selector_of_ofSelector {sel : Byte} {c : Command} (h : Command.ofSelector sel = some c) : sel = c.selector := by
  unfold Command.ofSelector at h
  split at h <;> cases h <;> rename_i hsel <;> exact BitVec.eq_of_toNat_eq hsel

/-- The selectors that name no command (R31). -/
theorem ofSelector_eq_none_iff (sel : Byte) :
    Command.ofSelector sel = none ↔ sel < 0x10#8 ∨ 0x1E#8 < sel ∨ sel = 0x16#8 := by
  constructor
  · intro h
    unfold Command.ofSelector at h
    split at h <;> cases h
    simp only [BitVec.lt_def, ← BitVec.toNat_inj, BitVec.toNat_ofNat, imp_false] at *
    omega
  · intro h
    cases hc : Command.ofSelector sel with
    | none => rfl
    | some c =>
      obtain rfl := selector_of_ofSelector hc
      have named : ¬ (c.selector < 0x10#8 ∨ 0x1E#8 < c.selector ∨ c.selector = 0x16#8) := by cases c <;> decide
      exact absurd h named

/-- The last word the engine is used on in a frame: the argument, or the command word if it carries a check byte (log 13). -/
theorem crcAfter_frameWords (cfg : Config) (c : Command) (arg : Option Word) (crc : Byte) :
    crcAfter (frameWords cfg c arg.toList) crc =
      arg.elim (if cfg.cmdWordCrc then crc8Word (cfg.cmdAddr.get c) else crc) crc8Word := by
  unfold frameWords
  cases arg <;> cases cfg.cmdWordCrc <;> rfl

/-- The validated arguments are at most one word (R60). -/
theorem argsOf_eq_toList {cfg : Config} {c : Command} {a : DWord} {args : List Word} (h : argsOf cfg c a = .ok args) :
    args = args.head?.toList := by
  have hval : validate cfg c a = .ok args := by rw [validate_eq_argsOf, h]; rfl
  have hlen : args.length ≤ 1 := (validate_length hval).trans_le (argWords_le_maxArgWords c)
  rw [← List.take_one, List.take_of_length_le hlen]

/-- Settles O31: validation by the table, then the frame of at most one argument word; the two frames are evaluated. -/
theorem serializeOperation : Obligations.SerializeOperation := by
  refine ⟨fun sel a s => ?_, ofSelector_eq_none_iff, ofSelector_selector, ?_⟩
  · simp only [exec, execSerialize, operandCommand]
    cases Command.ofSelector sel with
    | none => rfl
    | some c =>
      simp only [validate_eq_argsOf]
      cases hargs : argsOf s.cfg c a with
      | error cause => rfl
      | ok args =>
        obtain ⟨arg, rfl⟩ : ∃ arg : Option Word, args = arg.toList := ⟨_, argsOf_eq_toList hargs⟩
        simp only [Except.mapError, frame_toList, crcPasses, crcAfter_frameWords]
        cases arg <;> rfl
  · rintro cfg ⟨hwords, hcrc⟩
    simp only [frameOf, hwords, hcrc]
    decide +kernel

/-- Settles O32: the selector check, then the shared end of every decode; the corner cases of R72 are evaluated. -/
theorem deframeOperation : Obligations.DeframeOperation := by
  refine ⟨fun sel bytes s => ?_, by decide +kernel⟩
  simp only [exec, execDeframe, operandCommand]
  cases Command.ofSelector sel with
  | none => rfl
  | some c => exact congrArg _ (finishDecode_loadRx bytes (respWords c) (decodeResult c) s)

end Sys2Proof.Proofs
end

section
/-! The exchange sequencer family (43_exchange_sequencer.md): what a step runs (R74), the rows of R75 one by one, that a block
waits for its answers (R84), and that the exchange of an accepted request is `exchange(c, a)` (R83). -/

namespace Sys2Proof.Proofs

open Sys2Proof.Machine Sys2Proof.Safety Sys2Proof.Stmt

/-! ### What a step runs -/

theorem reqReady_eq_false_of_busy {s : State} (hbusy : busy s = true) : reqReady s = false := by
  simpa [busy] using hbusy

/-- Acceptance runs the operation that the request decodes to (R74). -/
theorem step_accept {s : State} {r : Request} {rest : List Request} {i : Instr} (hready : reqReady s = true)
    (hreset : resetAsserted s = false) (hreq : s.requests = r :: rest) (hdecode : decode r = .ok i) :
    step s = thenTick (exec i (accept r rest s)) :=
  step_run hreset ((fetch_accept hready hreq).trans (fetchedOf_ok hdecode _))

/-- A busy block runs the operation that its latch decodes to (20_memory.md R27, log 22). -/
theorem step_latched {s : State} {i : Instr} (hbusy : reqReady s = false) (hreset : resetAsserted s = false)
    (hdecode : s.req.decode = .ok i) : step s = thenTick (exec i s) :=
  step_run hreset ((fetch_busy hbusy).trans (fetchedOf_ok hdecode _))

/-- Settles O11: a ready block fetches the request it accepts, a busy one its latch. -/
theorem stepRunsDecoded : Obligations.StepRunsDecoded :=
  ⟨fun _ _ _ _ hready hreset hreq hdecode => step_accept hready hreset hreq hdecode,
    fun _ _ hbusy hreset hdecode => step_latched (reqReady_eq_false_of_busy hbusy) hreset hdecode⟩

/-! ### No operation looks at the request port -/

/-- `s` with other requests at its port. -/
def withRequests (qs : List Request) (s : State) : State := { s with requests := qs }

@[simp] theorem withRequests_phase (qs : List Request) (s : State) : (withRequests qs s).phase = s.phase := rfl
@[simp] theorem withRequests_cfg (qs : List Request) (s : State) : (withRequests qs s).cfg = s.cfg := rfl
@[simp] theorem withRequests_reqArgs (qs : List Request) (s : State) : (withRequests qs s).reqArgs = s.reqArgs := rfl
@[simp] theorem withRequests_txbuf (qs : List Request) (s : State) : (withRequests qs s).txbuf = s.txbuf := rfl
@[simp] theorem withRequests_txlen (qs : List Request) (s : State) : (withRequests qs s).txlen = s.txlen := rfl
@[simp] theorem withRequests_rxbuf (qs : List Request) (s : State) : (withRequests qs s).rxbuf = s.rxbuf := rfl
@[simp] theorem withRequests_outstanding (qs : List Request) (s : State) :
    (withRequests qs s).outstanding = s.outstanding := rfl
@[simp] theorem answer_withRequests (qs : List Request) (s : State) : answer (withRequests qs s) = answer s := rfl

/-- A step whose next state is changed by `f`. -/
def onNext (f : State → State) : Step → Step
  | .next s => .next (f s)
  | .fault e => .fault e
  | .refused r => .refused r

theorem finish_withRequests (qs : List Request) (o : Except Error Result) (s : State) :
    finish o (withRequests qs s) = withRequests qs (finish o s) := by
  cases o <;> rfl

theorem finishDecode_withRequests (qs : List Request) (bytes : List Byte) (n : Nat) (typed : List Word → Result)
    (s : State) : finishDecode bytes n typed (withRequests qs s) = withRequests qs (finishDecode bytes n typed s) :=
  finish_withRequests qs _ (afterVerify bytes s)

/-- Each phase reads and writes the same, whatever requests stand at the port (R74). -/
theorem seqStep_withRequests (qs : List Request) (c : Command) (a : DWord) (s : State) :
    seqStep c a (withRequests qs s) = onNext (withRequests qs) (seqStep c a s) := by
  cases hphase : s.phase <;> simp only [seqStep, withRequests_phase, hphase]
  case idle => rfl
  case done => rfl
  case validate =>
    simp only [seqValidate, withRequests_cfg]
    cases validate s.cfg c a <;> rfl
  case encode =>
    simp only [seqEncode, withRequests_cfg, withRequests_reqArgs, withRequests_txbuf]
    cases txWrite s.txbuf 0 (frame s.cfg c s.reqArgs) <;> rfl
  case transmit =>
    cases hout : s.outstanding with
    | true =>
      simp only [seqTransmit, withRequests_outstanding, answer_withRequests, hout, if_true]
      rcases answer s with _ | (_ | bytes | k | _) <;> rfl
    | false =>
      simp only [seqTransmit, withRequests_outstanding, withRequests_txbuf, withRequests_txlen, hout, Bool.false_eq_true,
        if_false]
      cases txRead s.txbuf 0 s.txlen <;> rfl
  case await =>
    cases hout : s.outstanding with
    | true =>
      simp only [seqAwait, withRequests_outstanding, answer_withRequests, hout, if_true]
      rcases answer s with _ | (_ | bytes | k | _)
      case some.done => by_cases hwords : respWords c = 0 <;> simp only [hwords, if_true, if_false] <;> rfl
      all_goals rfl
    | false =>
      simp only [seqAwait, withRequests_outstanding, hout, Bool.false_eq_true, if_false]
      rfl
  case receive =>
    cases hout : s.outstanding with
    | true =>
      simp only [seqReceive, withRequests_outstanding, answer_withRequests, hout, if_true]
      rcases answer s with _ | (_ | bytes | k | _) <;> rfl
    | false =>
      simp only [seqReceive, withRequests_outstanding, hout, Bool.false_eq_true, if_false]
      rfl
  case decode => exact congrArg Host.Outcome.next (finishDecode_withRequests qs _ _ _ s)

/-- Every operation does the same, whatever requests stand at the port. -/
theorem exec_withRequests (qs : List Request) (i : Instr) (s : State) :
    exec i (withRequests qs s) = onNext (withRequests qs) (exec i s) := by
  have word (f : Word → Result) (a : DWord) : onWord f a (withRequests qs s) = onNext (withRequests qs) (onWord f a s) := by
    unfold onWord
    cases operandU16 a <;> rfl
  have decoded (bytes : List Byte) (n : Nat) (typed : List Word → Result) :
      (.next (finishDecode bytes n typed (loadRx bytes (withRequests qs s))) : Step) =
        onNext (withRequests qs) (.next (finishDecode bytes n typed (loadRx bytes s))) :=
    congrArg Host.Outcome.next (finishDecode_withRequests qs bytes n typed (loadRx bytes s))
  rcases Instr.kinds i with hpure | rfl | ⟨c, a, rfl⟩
  · cases i
    case crc8 a => exact word _ a
    case verify a b => exact word _ a
    case encU16 a => exact word _ a
    case encU32 a => rfl
    case encF32 a => rfl
    case decU16 bytes => exact decoded bytes 1 _
    case decU32 bytes => exact decoded bytes 2 _
    case decF32 bytes => exact decoded bytes 2 _
    case decWords b bytes =>
      simp only [exec, execDecWords]
      cases operandCount b with
      | error e => rfl
      | ok n => exact decoded bytes n _
    case serialize cmd a =>
      simp only [exec, execSerialize, withRequests_cfg]
      cases operandCommand cmd with
      | error e => rfl
      | ok c => cases hval : validate s.cfg c a <;> simp only [hval] <;> rfl
    case deframe cmd bytes =>
      simp only [exec, execDeframe]
      cases operandCommand cmd with
      | error e => rfl
      | ok c => exact decoded bytes (respWords c) _
    all_goals exact absurd hpure (by simp [Instr.isPure, Instr.opsel])
  · rfl
  · simp only [exec_toInstr, seqStep_withRequests]

/-! ### The request handshake -/

/-- No operation writes the latch, the request port or the inputs. -/
theorem exec_keeps {i : Instr} {s t : State} (h : exec i s = .next t) :
    t.req = s.req ∧ t.requests = s.requests ∧ t.inputs = s.inputs := by
  rcases exec_cases h with ⟨u, ⟨_, _, _, _, rfl, -⟩, rfl⟩ | ⟨c, a, -, hrow⟩
  · exact ⟨finish_req _ _, finish_requests _ _, finish_inputs _ _⟩
  · obtain ⟨-, hrequests, hinputs⟩ := (seqStep_row hrow).outside
    exact ⟨(seqStep_row hrow).req, hrequests, hinputs⟩

/-- A busy block whose latch holds a reserved selector refuses it (log 22). -/
theorem step_latched_reserved {s : State} {e : Reject} (hbusy : reqReady s = false) (hreset : resetAsserted s = false)
    (hdecode : s.req.decode = .error e) : step s = .next (tick (raise (.unsupported s.req.opsel) s)) :=
  step_reserved hreset
    ((fetch_busy hbusy).trans (fetchedOf_reserved (reservedSelector_of_decode_error hdecode) s))

/-- The step of a busy block leaves the request port and the latch, and is the same whatever stands at the port (R74). -/
theorem step_busy_withRequests {s t : State} (hbusy : reqReady s = false) (hreset : resetAsserted s = false)
    (hstep : step s = .next t) : t.requests = s.requests ∧ t.req = s.req ∧
      ∀ qs, step (withRequests qs s) = .next (withRequests qs t) := by
  cases hdecode : s.req.decode with
  | ok i =>
    rw [step_latched hbusy hreset hdecode] at hstep
    obtain ⟨u, hexec, rfl⟩ := thenTick_eq_next hstep
    obtain ⟨hreq, hrequests, -⟩ := exec_keeps hexec
    refine ⟨hrequests, hreq, fun qs => ?_⟩
    rw [step_latched (s := withRequests qs s) hbusy hreset hdecode, exec_withRequests, hexec]
    rfl
  | error e =>
    rw [step_latched_reserved hbusy hreset hdecode] at hstep
    cases hstep
    exact ⟨rfl, rfl, fun qs => step_latched_reserved (s := withRequests qs s) hbusy hreset hdecode⟩

/-- Settles O10: the three kinds of request, and a busy block, which does not look at the port. -/
theorem requestHandshake : Obligations.RequestHandshake := by
  refine ⟨fun s r rest hready hreset hreq => ⟨fun hsel => ?_, fun i hdecode hpure => ?_, fun c a hdecode => ?_⟩,
    fun s t hbusy hreset hstep => step_busy_withRequests (reqReady_eq_false_of_busy hbusy) hreset hstep⟩
  · exact step_unsupported hready hreset hreq hsel
  · obtain ⟨u, ⟨_, _, _, _, rfl, -⟩, hexec⟩ := exec_pure (.inl hpure) (accept r rest s)
    have hstep := step_accept hready hreset hreq hdecode
    exact ⟨_, hstep.trans (congrArg thenTick hexec), finish_phase _ _, finish_req _ _, finish_requests _ _, hstep⟩
  · exact step_accept_toInstr hready hreset hreq hdecode

/-! ### The rows of R75 as next states -/

section Rows

variable {c : Command} {a : DWord} {s : State}

theorem seqStep_refused {e : Error} (hphase : s.phase = .validate) (hval : validate s.cfg c a = .error e) :
    seqStep c a s = .next (raise e s) := by
  simp only [seqStep, hphase, seqValidate, hval]

/-- A transport failure ends the exchange at once, in TRANSMIT as in RECEIVE (R78, R80). -/
theorem seqStep_failed {k : TKind} (hphase : s.phase = .transmit ∨ s.phase = .receive) (hout : s.outstanding = true)
    (hans : answer s = some (.fail k)) : seqStep c a s = .next (raise (.transport k) s) := by
  rcases hphase with hphase | hphase <;> simp only [seqStep, hphase, seqTransmit, seqReceive, hout, hans, if_true]

theorem seqStep_written (hphase : s.phase = .transmit) (hout : s.outstanding = true) (hans : answer s = some .writeOk) :
    seqStep c a s = .next (enter .await s) := by
  simp only [seqStep, hphase, seqTransmit, hout, hans, if_true]

theorem seqStep_await_issue (hphase : s.phase = .await) (hout : s.outstanding = false) :
    seqStep c a s = .next (issue (.wait (delayMs s.cfg c)) s) := by
  simp only [seqStep, hphase, seqAwait, hout, Bool.false_eq_true, if_false]

theorem seqStep_returns_unit (hphase : s.phase = .await) (hout : s.outstanding = true) (hans : answer s = some .done)
    (hwords : respWords c = 0) : seqStep c a s = .next (ret .unit s) := by
  simp only [seqStep, hphase, seqAwait, hout, hans, hwords, if_true]

theorem seqStep_awaited (hphase : s.phase = .await) (hout : s.outstanding = true) (hans : answer s = some .done)
    (hwords : respWords c ≠ 0) : seqStep c a s = .next (enter .receive s) := by
  simp only [seqStep, hphase, seqAwait, hout, hans, hwords, if_true, if_false]

theorem seqStep_receive_issue (hphase : s.phase = .receive) (hout : s.outstanding = false) :
    seqStep c a s = .next (issue (.read s.cfg.devAddr (Config.wireWordBytes * respWords c)) s) := by
  simp only [seqStep, hphase, seqReceive, hout, Bool.false_eq_true, if_false]

theorem seqStep_received {bytes : List Byte} (hphase : s.phase = .receive) (hout : s.outstanding = true)
    (hans : answer s = some (.readOk bytes)) : seqStep c a s = .next (enter .decode (loadRx bytes s)) := by
  simp only [seqStep, hphase, seqReceive, hout, hans, if_true]

theorem seqStep_decode (hphase : s.phase = .decode) :
    seqStep c a s = .next (finishDecode s.rxbuf (respWords c) (decodeResult c) s) := by
  simp only [seqStep, hphase, seqDecode]

/-- With a transaction outstanding and no answer the block waits (R84, log 10). -/
theorem seqStep_unanswered (hphase : s.phase = .transmit ∨ s.phase = .await ∨ s.phase = .receive)
    (hout : s.outstanding = true) (hans : answer s = none) : seqStep c a s = .next s := by
  rcases hphase with hphase | hphase | hphase <;>
    simp only [seqStep, hphase, seqTransmit, seqAwait, seqReceive, hout, hans, if_true]

end Rows

/-- Settles O36: each row is a lemma about `seqStep`, whose next state is the one the statement writes out. -/
theorem sequencerRows : Obligations.SequencerRows := by
  intro c a s
  simp only [exec_toInstr]
  refine ⟨fun e hphase hval => ?_, fun args hphase hval => seqStep_validated hphase hval, fun hphase hargs => ?_,
    fun bytes hphase hout hread => seqStep_transmit_issue hphase hout hread,
    fun k hphase hout hans => seqStep_failed (.inl hphase) hout hans, seqStep_written, seqStep_await_issue,
    seqStep_returns_unit, fun hphase hout hans hwords => seqStep_awaited hphase hout hans hwords.ne',
    seqStep_receive_issue, fun k hphase hout hans => seqStep_failed (.inr hphase) hout hans,
    fun bytes hphase hout hans => seqStep_received hphase hout hans, fun hphase => ?_⟩
  · rw [seqStep_refused hphase hval, raise_eq_raisedAs]
  · have hfits := frame_fits s.cfg c hargs
    exact ⟨_, _, seqStep_encode hphase hfits, txRead_writeList hfits⟩
  · rw [seqStep_decode hphase, finishDecode, finish_eq_ended]
    rfl

/-! ### The transitions of R75 -/

/-- Settles O37, row by row: each row's phases are in the table, and a row that leaves a waiting phase has had its answer. -/
theorem phaseTransitions : Obligations.PhaseTransitions := by
  intro c a s t hexec
  have hrow : SeqRow c a s t := seqStep_row (exec_toInstr c a s ▸ hexec)
  cases hrow
  case start hready => rcases reqReady_iff.mp hready with hphase | hphase <;> simp [hphase]
  case invalid e hphase hval => simp [hphase]
  case validated args hphase hval => simp [hphase]
  case encoded m hphase hwrite => simp [hphase]
  case writeIssued bytes hphase hout hread => simp [hphase]
  case written hphase hout hans => simp [hphase, hout, hans]
  case waitIssued hphase hout => simp [hphase]
  case returnsUnit hphase hout hans hwords => simp [hphase, hout, hans]
  case awaited hphase hout hans hwords => simp [hphase, hout, hans, Nat.pos_of_ne_zero hwords]
  case readIssued hphase hout => simp [hphase]
  case received bytes hphase hout hans => simp [hphase, hout, hans]
  case failed k hphase hout hans => rcases hphase with hphase | hphase <;> simp [hphase, hout, hans]
  case decoded hphase => simp [hphase, finishDecode]
  case waiting hphase hout => rcases hphase with hphase | hphase | hphase <;> simp [hphase]

/-! ### Waiting -/

/-- Without a reset and without an answer, a block with a transaction outstanding lets time pass. -/
theorem step_unanswered {c : Command} {s : State} (hlatch : s.req.decode = .ok (c.toInstr s.req.a))
    (hphase : s.phase = .transmit ∨ s.phase = .await ∨ s.phase = .receive) (hout : s.outstanding = true)
    (hquiet : ∀ i ∈ s.inputs, i.reset = false ∧ i.answer = none) : step s = .next (tick s) := by
  have hbusy : reqReady s = false := by rcases hphase with hphase | hphase | hphase <;> simp [reqReady, hphase]
  have hans : answer s = none := by
    have hinput : (currentInput s).answer = none := by
      unfold currentInput
      cases hinputs : s.inputs with
      | nil => rfl
      | cons i rest => exact (hquiet i (by simp [hinputs])).2
    simp only [answer, hinput]
  rw [step_busy_toInstr hbusy (resetAsserted_of_inputs fun i hi => (hquiet i hi).1) hlatch,
    seqStep_unanswered hphase hout hans, thenTick_next]

/-- Settles O40, by induction on the number of steps. -/
theorem unansweredBlockWaits : Obligations.UnansweredBlockWaits := by
  intro c s n hlatch hphase hout hquiet
  induction n generalizing s with
  | zero => rfl
  | succ n ih =>
    have hlater : Runs n (tick s) { tick s with inputs := (tick s).inputs.drop n } :=
      ih (tick s) hlatch hphase hout fun i hi => hquiet i (List.mem_of_mem_tail hi)
    have hdrop : (tick s).inputs.drop n = s.inputs.drop (n + 1) := by simp
    rw [hdrop] at hlater
    exact runs_succ (step_unanswered hlatch hphase hout hquiet) hlater

/-! ### `exchange(c, a)`, shape by shape -/

section Shapes

variable {cfg : Config} {c : Command} {a : DWord} {args : List Word}

theorem exchange_invalid {e : Error} (hval : validate cfg c a = .error e) (w : Except TKind Unit)
    (r : Except TKind (List Byte)) : exchange cfg c a w r = ([], .error e) := by
  simp only [exchange, hval]

/-- The events of a whole exchange with arguments `args`, in order (R83). -/
def exchangeEvents (cfg : Config) (c : Command) (args : List Word) : List PortEvent :=
  [.write cfg.devAddr (frame cfg c args), .wait (delayMs cfg c), .read cfg.devAddr (Config.wireWordBytes * respWords c)]

theorem exchange_write_failed (hval : validate cfg c a = .ok args) (k : TKind) (r : Except TKind (List Byte)) :
    exchange cfg c a (.error k) r = ((exchangeEvents cfg c args).take 1, .error (.transport k)) := by
  simp only [exchange, hval]
  rfl

theorem exchange_no_words (hval : validate cfg c a = .ok args) (hwords : respWords c = 0)
    (r : Except TKind (List Byte)) : exchange cfg c a (.ok ()) r = ((exchangeEvents cfg c args).take 2, .ok .unit) := by
  simp only [exchange, hval, hwords, if_true]
  rfl

theorem exchange_read_failed (hval : validate cfg c a = .ok args) (hwords : respWords c ≠ 0) (k : TKind) :
    exchange cfg c a (.ok ()) (.error k) = (exchangeEvents cfg c args, .error (.transport k)) := by
  simp only [exchange, hval, if_neg hwords]
  rfl

theorem exchange_read (hval : validate cfg c a = .ok args) (hwords : respWords c ≠ 0) (bytes : List Byte) :
    exchange cfg c a (.ok ()) (.ok bytes) = (exchangeEvents cfg c args, deframe c bytes) := by
  simp only [exchange, hval, if_neg hwords]
  rfl

end Shapes

/-- The four shapes of R83. -/
theorem exchange_shape (cfg : Config) (c : Command) (a : DWord) (w : Except TKind Unit) (r : Except TKind (List Byte)) :
    let tr := (exchange cfg c a w r).1
    (tr = [] ∧ ∃ e, validate cfg c a = .error e) ∨
    (∃ F, tr = [.write cfg.devAddr F] ∧ ∃ k, w = .error k) ∨
    (∃ F, tr = [.write cfg.devAddr F, .wait (cfg.delayMs.get c)] ∧ respWords c = 0) ∨
    (∃ F, tr = [.write cfg.devAddr F, .wait (cfg.delayMs.get c), .read cfg.devAddr (3 * respWords c)] ∧
      0 < respWords c) := by
  cases hval : validate cfg c a with
  | error e => exact .inl ⟨congrArg Prod.fst (exchange_invalid hval w r), e, rfl⟩
  | ok args =>
    rcases w with k | ⟨⟩
    · exact .inr (.inl ⟨_, congrArg Prod.fst (exchange_write_failed hval k r), k, rfl⟩)
    · by_cases hwords : respWords c = 0
      · exact .inr (.inr (.inl ⟨_, congrArg Prod.fst (exchange_no_words hval hwords r), hwords⟩))
      · refine .inr (.inr (.inr ⟨frame cfg c args, ?_, Nat.pos_of_ne_zero hwords⟩))
        rcases r with k | bytes
        · exact congrArg Prod.fst (exchange_read_failed hval hwords k)
        · exact congrArg Prod.fst (exchange_read hval hwords bytes)

/-! ### A running exchange against `exchange(c, a)` -/

theorem holdsOutcome_finish (o : Except Error Result) (s : State) : holdsOutcome o (finish o s) := by
  cases o with
  | ok v => exact ⟨rfl, rfl, rfl, rfl⟩
  | error e => exact ⟨rfl, rfl, rfl⟩

/-- How many of its three transactions the running exchange has issued (R75). -/
def issued (s : State) : Nat :=
  s.outstanding.toNat +
    match s.phase with
    | .await => 1
    | .receive => 2
    | .decode => 3
    | _ => 0

/-- The port events that the running exchange of `c` has issued. -/
def sent (c : Command) (s : State) : List PortEvent := (exchangeEvents s.cfg c s.reqArgs).take (issued s)

/-- The exchange of `c` with operand `a`, accepted when the configuration was `cfg`, the trace `before` and the requests behind
it `rest`, is running, and the trace holds what it has issued. -/
structure InExchange (c : Command) (a : DWord) (cfg : Config) (before : List PortEvent) (rest : List Request)
    (s : State) : Prop where
  busy : reqReady s = false
  latch : s.req.decode = .ok (c.toInstr a)
  cfg_eq : s.cfg = cfg
  requests : s.requests = rest
  progress : ProgressInv c a s
  trace : s.trace = before ++ sent c s

/-- The trace has grown by the events of `exchange(c, a)` for some answers, and `s` holds its outcome (R83). -/
def Exchanged (c : Command) (a : DWord) (cfg : Config) (before : List PortEvent) (s : State) : Prop :=
  ∃ w r, s.trace = before ++ (exchange cfg c a w r).1 ∧ holdsOutcome (exchange cfg c a w r).2 s

theorem exchanged_of_eq {c : Command} {a : DWord} {cfg : Config} {before es : List PortEvent} {s : State}
    {o : Except Error Result} (w : Except TKind Unit) (r : Except TKind (List Byte))
    (hexchange : exchange cfg c a w r = (es, o)) (htrace : s.trace = before ++ es) :
    Exchanged c a cfg before (finish o s) := by
  refine ⟨w, r, ?_, ?_⟩
  · rw [hexchange, finish_trace, htrace]
  · rw [hexchange]
    exact holdsOutcome_finish o s

/-- A row that leaves the exchange running issues the next event of `exchange(c, a)` or none. -/
theorem SeqRow.trace_sent {c : Command} {a : DWord} {s t : State} {before : List PortEvent} (h : SeqRow c a s t)
    (hprog : ProgressInv c a s) (hbusy : reqReady s = false) (hbusy' : reqReady t = false)
    (htrace : s.trace = before ++ sent c s) : t.trace = before ++ sent c t := by
  cases h
  case start hready => simp [hready] at hbusy
  case validated args hphase hval =>
    have hout : s.outstanding = false := by simpa [ProgressInv, hphase] using hprog
    simpa [sent, issued, hphase, hout] using htrace
  case encoded m hphase hwrite =>
    simp only [ProgressInv, hphase] at hprog
    obtain ⟨hout, -⟩ := hprog
    simpa [sent, issued, hphase, hout] using htrace
  case writeIssued bytes hphase hout hread =>
    simp only [ProgressInv, hphase] at hprog
    obtain ⟨-, hframe, -⟩ := hprog
    obtain rfl : bytes = frame s.cfg c s.reqArgs := by simpa [hread] using hframe
    simpa [sent, issued, hphase, hout, exchangeEvents] using htrace
  case written hphase hout hans => simpa [sent, issued, hphase, hout] using htrace
  case waitIssued hphase hout => simp [htrace, sent, issued, hphase, hout, exchangeEvents]
  case awaited hphase hout hans hwords => simpa [sent, issued, hphase, hout] using htrace
  case readIssued hphase hout => simp [htrace, sent, issued, hphase, hout, exchangeEvents]
  case received bytes hphase hout hans => simpa [sent, issued, hphase, hout] using htrace
  case waiting hphase hout => exact htrace
  case decoded hphase => simp [reqReady, finishDecode] at hbusy'
  all_goals simp [reqReady] at hbusy'

/-- A row that ends the exchange ends it as `exchange(c, a)` does for the answers that came; where none was asked for, any
answer will do. -/
theorem SeqRow.exchanged {c : Command} {a : DWord} {s t : State} {before : List PortEvent} (h : SeqRow c a s t)
    (hprog : ProgressInv c a s) (hbusy : reqReady s = false) (hended : reqReady t = true)
    (htrace : s.trace = before ++ sent c s) : Exchanged c a s.cfg before t := by
  cases h
  case start hready => simp [hready] at hbusy
  case invalid e hphase hval =>
    have hout : s.outstanding = false := by simpa [ProgressInv, hphase] using hprog
    exact exchanged_of_eq (.ok ()) (.ok []) (exchange_invalid hval _ _)
      (by simpa [sent, issued, hphase, hout] using htrace)
  case failed k hphase hout hans =>
    rcases hphase with hphase | hphase
    · simp only [ProgressInv, hphase] at hprog
      obtain ⟨hval, -⟩ := hprog
      exact exchanged_of_eq (.error k) (.ok []) (exchange_write_failed hval k _)
        (by simpa [sent, issued, hphase, hout] using htrace)
    · simp only [ProgressInv, hphase] at hprog
      obtain ⟨hwords, hval, -⟩ := hprog
      exact exchanged_of_eq (.ok ()) (.error k) (exchange_read_failed hval hwords k)
        (by simpa [sent, issued, hphase, hout, exchangeEvents] using htrace)
  case returnsUnit hphase hout hans hwords =>
    simp only [ProgressInv, hphase] at hprog
    obtain ⟨hval, -⟩ := hprog
    exact exchanged_of_eq (.ok ()) (.ok []) (exchange_no_words hval hwords _)
      (by simpa [sent, issued, hphase, hout] using htrace)
  case decoded hphase =>
    simp only [ProgressInv, hphase] at hprog
    obtain ⟨hout, hwords, hval, -⟩ := hprog
    exact exchanged_of_eq (.ok ()) (.ok s.rxbuf) (exchange_read hval hwords s.rxbuf)
      (by simpa [sent, issued, hphase, hout, exchangeEvents] using htrace)
  case waiting hphase hout => simp [hended] at hbusy
  all_goals simp [reqReady, *] at hended

/-! ### Runs -/

/-- What an accepted exchange has come to: it is running, or it is over and its outcome stands, or a request behind it has
been accepted since. -/
def AfterAcceptance (c : Command) (a : DWord) (cfg : Config) (before : List PortEvent) (rest : List Request)
    (s : State) : Prop :=
  InExchange c a cfg before rest s ∨ (reqReady s = true ∧ s.requests = rest ∧ Exchanged c a cfg before s) ∨
    s.requests.length < rest.length

/-- A step uses up the input of its turn, and takes a request from the port or none. -/
theorem step_ports {s t : State} (h : step s = .next t) :
    t.inputs = s.inputs.tail ∧ (t.requests = s.requests ∨ t.requests = s.requests.tail) := by
  rcases step_cases h with ⟨-, rfl⟩ | ⟨-, -, rfl⟩ | ⟨-, i, u, v, hfetch, hexec, rfl⟩ | ⟨-, sel, u, hfetch, rfl⟩
  · exact ⟨rfl, .inl rfl⟩
  · exact ⟨rfl, .inl rfl⟩
  · obtain ⟨-, hrequests, hinputs⟩ := exec_keeps hexec
    rcases fetch_run hfetch with ⟨-, r, rest, hreq, -, rfl⟩ | ⟨-, -, rfl⟩
    · exact ⟨congrArg List.tail hinputs, .inr (hrequests.trans (by simp [hreq]))⟩
    · exact ⟨congrArg List.tail hinputs, .inl hrequests⟩
  · rcases fetch_reserved hfetch with ⟨-, r, rest, hreq, -, rfl⟩ | ⟨-, -, rfl⟩
    · exact ⟨rfl, .inr (by simp [hreq])⟩
    · exact ⟨rfl, .inl rfl⟩

/-- A ready block takes the request at its port, whatever it selects (R74). -/
theorem step_takes_request {s t : State} {r : Request} {rest : List Request} (hready : reqReady s = true)
    (hreset : resetAsserted s = false) (hreq : s.requests = r :: rest) (hstep : step s = .next t) :
    t.requests = rest := by
  cases hdecode : decode r with
  | ok i =>
    rw [step_accept hready hreset hreq hdecode] at hstep
    obtain ⟨u, hexec, rfl⟩ := thenTick_eq_next hstep
    obtain ⟨-, hrequests, -⟩ := exec_keeps hexec
    exact hrequests
  | error e =>
    rw [step_unsupported hready hreset hreq (.inl (reservedSelector_of_decode_error hdecode))] at hstep
    cases hstep
    rfl

theorem exists_step_of_runs_succ {n : Nat} {s t : State} (h : Runs (n + 1) s t) :
    ∃ u, step s = .next u ∧ Runs n u t := by
  have hcore : Sys2Proof.core.step s = step s := rfl
  cases hstep : step s with
  | next u => exact ⟨u, rfl, by simpa [Runs, Host.Core.run, hcore, hstep] using h⟩
  | fault f => simp [Runs, Host.Core.run, hcore, hstep] at h
  | refused r => simp [Runs, Host.Core.run, hcore, hstep] at h

/-- What every step without reset keeps holds at the end of a run to which no reset comes. -/
theorem runs_keeps {P : State → Prop} (hkeep : ∀ u v, P u → resetAsserted u = false → step u = .next v → P v) {n : Nat}
    {s t : State} (hs : P s) (hquiet : ∀ i ∈ s.inputs, i.reset = false) (hrun : Runs n s t) : P t := by
  induction n generalizing s with
  | zero =>
    cases hrun
    exact hs
  | succ n ih =>
    obtain ⟨u, hstep, hlater⟩ := exists_step_of_runs_succ hrun
    obtain ⟨hinputs, -⟩ := step_ports hstep
    refine ih (hkeep s u hs (resetAsserted_of_inputs hquiet) hstep) (fun i hi => ?_) hlater
    exact hquiet i (List.mem_of_mem_tail (hinputs ▸ hi))

section ExchangeRuns

variable {c : Command} {a : DWord} {cfg : Config} {before : List PortEvent} {rest : List Request} {s t : State}

/-- A step of a running exchange goes on with it or ends it. -/
theorem InExchange.goes_on_or_ends (h : InExchange c a cfg before rest s) (hreset : resetAsserted s = false)
    (hstep : step s = .next t) :
    InExchange c a cfg before rest t ∨ (reqReady t = true ∧ t.requests = rest ∧ Exchanged c a cfg before t) := by
  obtain ⟨hbusy, hlatch, rfl, hrequests, hprog, htrace⟩ := h
  rw [step_busy_toInstr hbusy hreset hlatch] at hstep
  obtain ⟨u, hseq, rfl⟩ := thenTick_eq_next hstep
  have hrow := seqStep_row hseq
  obtain ⟨hcfg, hrequests', -⟩ := hrow.outside
  cases hready : reqReady u with
  | false =>
    exact .inl ⟨hready, hrow.req ▸ hlatch, hcfg, hrequests'.trans hrequests, hrow.progressInv hprog,
      hrow.trace_sent hprog hbusy hready htrace⟩
  | true => exact .inr ⟨hready, hrequests'.trans hrequests, hrow.exchanged hprog hbusy hready htrace⟩

/-- The invariant of every run after acceptance. -/
theorem AfterAcceptance.kept (h : AfterAcceptance c a cfg before rest s) (hreset : resetAsserted s = false)
    (hstep : step s = .next t) : AfterAcceptance c a cfg before rest t := by
  rcases h with hrunning | ⟨hready, hrest, hover⟩ | hlater
  · rcases hrunning.goes_on_or_ends hreset hstep with hrunning | hover
    · exact .inl hrunning
    · exact .inr (.inl hover)
  · cases hreq : s.requests with
    | nil =>
      rw [step_of_no_request hready hreq hreset] at hstep
      cases hstep
      exact .inr (.inl ⟨hready, hrest, hover⟩)
    | cons r later =>
      refine .inr (.inr ?_)
      rw [step_takes_request hready hreset hreq hstep, ← hrest, hreq]
      exact Nat.lt_succ_self _
  · obtain ⟨-, hrequests⟩ := step_ports hstep
    refine .inr (.inr (lt_of_le_of_lt ?_ hlater))
    rcases hrequests with hrequests | hrequests <;> simp [hrequests]

end ExchangeRuns

/-- An accepted catalog command is in its exchange, with nothing issued (R74). -/
theorem inExchange_start {c : Command} {a : DWord} {r : Request} {rest : List Request} {s : State}
    (hdecode : decode r = .ok (c.toInstr a)) :
    InExchange c a s.cfg s.trace rest (tick (enter .validate (accept r rest s))) :=
  ⟨rfl, hdecode, rfl, rfl, rfl, by simp [sent, issued]⟩

/-- Once the exchange of an accepted request is DONE, with no request behind it accepted and no reset, it has gone as
`exchange(c, a)` says for some answers. -/
theorem exchanged_of_runs {c : Command} {a : DWord} {s t : State} {rest : List Request} {n : Nat}
    (hpresents : Presents s (c.toInstr a) rest) (hquiet : ∀ i ∈ s.inputs, i.reset = false) (hrun : Runs n s t)
    (hrequests : t.requests = rest) (hdone : t.phase = .done) : Exchanged c a s.cfg s.trace t := by
  obtain ⟨hready, r, hreq, hdecode⟩ := hpresents
  cases n with
  | zero =>
    cases hrun
    simp [hreq] at hrequests
  | succ n =>
    obtain ⟨u, hstep, hlater⟩ := exists_step_of_runs_succ hrun
    rw [step_accept_toInstr hready (resetAsserted_of_inputs hquiet) hreq hdecode] at hstep
    cases hstep
    have hafter : AfterAcceptance c a s.cfg s.trace rest t :=
      runs_keeps (fun _ _ hu hreset hstep => hu.kept hreset hstep) (.inl (inExchange_start hdecode))
        (fun i hi => hquiet i (List.mem_of_mem_tail hi)) hlater
    rcases hafter with hrunning | ⟨-, -, hover⟩ | hlater
    · exact absurd hdone (phase_ne_done_of_busy hrunning.busy)
    · exact hover
    · simp [hrequests] at hlater

/-- Settles O39: every step keeps `AfterAcceptance`, and the shapes are those of `exchange`. -/
theorem exchangeRefinesFunction : Obligations.ExchangeRefinesFunction :=
  ⟨fun _ _ _ _ _ _ hpresents hquiet hrun hrequests hdone => exchanged_of_runs hpresents hquiet hrun hrequests hdone,
    exchange_shape⟩

end Sys2Proof.Proofs
end

section
/-! The commands family (44_commands.md): a run of any catalog command whose transactions are answered, phase by phase (R83, R87
to R101), then the forms the statements write its exchange in, and SET_READY (R93). -/

namespace Sys2Proof.Proofs

open Sys2Proof.Machine Sys2Proof.Safety Sys2Proof.Stmt

/-! ### Runs to a state with a property -/

/-- Some run from `s` ends in a state with property `P`. -/
def Reaches (P : State → Prop) (s : State) : Prop := ∃ n t, Runs n s t ∧ P t

theorem reaches_of_step {P : State → Prop} {s u : State} (hstep : step s = .next u) (hlater : Reaches P u) :
    Reaches P s := by
  obtain ⟨n, t, hrun, ht⟩ := hlater
  exact ⟨n + 1, t, runs_succ hstep hrun, ht⟩

/-! ### The inputs of a schedule -/

theorem resetAsserted_eq {s : State} {i : Input} {ins : List Input} (hinputs : s.inputs = i :: ins) :
    resetAsserted s = i.reset := by
  simp [resetAsserted, currentInput, hinputs]

theorem answer_of_quiet {s : State} {ins : List Input} (hinputs : s.inputs = quiet :: ins) : answer s = none := by
  simp [answer, currentInput, hinputs, quiet]

/-- An answer to the last transaction of the trace arrives if that transaction is outstanding (log 9). -/
theorem answer_of_answerTo {s : State} {n : Nat} {x : Answer} {ins : List Input} (hinputs : s.inputs = answerTo n x :: ins)
    (hout : s.outstanding = true) (hlen : s.trace.length = n + 1) : answer s = some x := by
  simp [answer, currentInput, hinputs, answerTo, hout, hlen]

/-- The inputs while transaction `n` is made: the step that issues it, `d` idle steps, and its answer. -/
def transaction (n d : Nat) (x : Answer) (later : List Input) : List Input :=
  quiet :: (List.replicate d quiet ++ answerTo n x :: later)

/-- The inputs from RECEIVE on, in an exchange whose BusWrite is transaction `n`. -/
def receiveInputs (n : Nat) (r : Except TKind (List Byte)) (d₃ : Nat) (after : List Input) : List Input :=
  transaction (n + 2) d₃ (readAnswer r) (quiet :: after)

/-- The inputs from AWAIT on. -/
def awaitInputs (n : Nat) (r : Except TKind (List Byte)) (d₂ d₃ : Nat) (after : List Input) : List Input :=
  transaction (n + 1) d₂ .done (receiveInputs n r d₃ after)

/-- The inputs from TRANSMIT on. -/
def transmitInputs (n : Nat) (w : Except TKind Unit) (r : Except TKind (List Byte)) (d₁ d₂ d₃ : Nat)
    (after : List Input) : List Input :=
  transaction n d₁ (writeAnswer w) (awaitInputs n r d₂ d₃ after)

/-- A schedule is acceptance, VALIDATE and ENCODE, and then the inputs from TRANSMIT on. -/
theorem schedule_append (n : Nat) (w : Except TKind Unit) (r : Except TKind (List Byte)) (d₁ d₂ d₃ : Nat)
    (after : List Input) : schedule n w r d₁ d₂ d₃ ++ after =
      quiet :: quiet :: quiet :: transmitInputs n w r d₁ d₂ d₃ after := by
  simp [schedule, transmitInputs, awaitInputs, receiveInputs, transaction, List.replicate_add, List.replicate_succ]

/-! ### An exchange, phase by phase -/

/-- The exchange is in phase `p`, with a transaction outstanding or not, and the inputs to come are `ins`. -/
structure ExchangeAt (c : Command) (a : DWord) (cfg : Config) (before : List PortEvent) (rest : List Request)
    (p : Phase) (out : Bool) (ins : List Input) (s : State) : Prop extends InExchange c a cfg before rest s where
  phase : s.phase = p
  outstanding : s.outstanding = out
  inputs : s.inputs = ins

/-- The exchange is over: its port events are appended to the trace, and its outcome is held. -/
def Completed (cfg : Config) (before : List PortEvent) (rest : List Request)
    (x : List PortEvent × Except Error Result) (t : State) : Prop :=
  t.requests = rest ∧ t.cfg = cfg ∧ t.trace = before ++ x.1 ∧ holdsOutcome x.2 t

section Phases

variable {c : Command} {a : DWord} {cfg : Config} {before : List PortEvent} {rest : List Request} {p : Phase} {out : Bool}
  {i : Input} {ins : List Input} {s t : State} {P : State → Prop} {w : Except TKind Unit} {r : Except TKind (List Byte)}
  {d₁ d₂ d₃ : Nat}

theorem ExchangeAt.step_eq (h : ExchangeAt c a cfg before rest p out (i :: ins) s) (hi : i.reset = false)
    (hseq : seqStep c a s = .next t) : step s = .next (tick t) := by
  rw [step_busy_toInstr h.busy ((resetAsserted_eq h.inputs).trans hi) h.latch, hseq, thenTick_next]

/-- A row that leaves the block busy goes on with the exchange. -/
theorem ExchangeAt.goes_on (h : ExchangeAt c a cfg before rest p out (i :: ins) s) (hi : i.reset = false)
    (hseq : seqStep c a s = .next t) (hbusy : reqReady t = false)
    (hlater : ExchangeAt c a cfg before rest t.phase t.outstanding ins (tick t) → Reaches P (tick t)) : Reaches P s := by
  have hstep := h.step_eq hi hseq
  obtain ⟨hinputs, -⟩ := step_ports hstep
  rw [h.inputs] at hinputs
  refine reaches_of_step hstep (hlater ?_)
  rcases h.toInExchange.goes_on_or_ends ((resetAsserted_eq h.inputs).trans hi) hstep with hrunning | ⟨hready, -⟩
  · exact ⟨hrunning, rfl, rfl, hinputs⟩
  · exact absurd hbusy (by simp [show reqReady t = true from hready])

/-- A row that ends the exchange completes it, if `exchange(c, a)` gives that outcome and the events issued so far. -/
theorem ExchangeAt.ends {o : Except Error Result} {u : State} (h : ExchangeAt c a cfg before rest p out (i :: ins) s)
    (hi : i.reset = false) (hseq : seqStep c a s = .next (finish o u)) (htrace : u.trace = s.trace)
    (hexchange : exchange cfg c a w r = (sent c s, o)) : Reaches (Completed cfg before rest (exchange cfg c a w r)) s := by
  obtain ⟨hcfg, hrequests, -⟩ := (seqStep_row hseq).outside
  refine reaches_of_step (h.step_eq hi hseq) ⟨0, _, rfl, hrequests.trans h.requests, hcfg.trans h.cfg_eq, ?_, ?_⟩
  · rw [hexchange, tick_trace, finish_trace, htrace, h.trace]
  · rw [hexchange]
    exact holdsOutcome_finish o u

/-- While a transaction is outstanding, idle steps change nothing until its answer arrives. -/
theorem ExchangeAt.reaches_answer {n d : Nat} {x : Answer}
    (h : ExchangeAt c a cfg before rest p true (List.replicate d quiet ++ answerTo n x :: ins) s)
    (hp : p = .transmit ∨ p = .await ∨ p = .receive) (hlen : s.trace.length = n + 1)
    (hlater : ∀ u, ExchangeAt c a cfg before rest p true (answerTo n x :: ins) u → answer u = some x → Reaches P u) :
    Reaches P s := by
  induction d generalizing s with
  | zero => exact hlater s h (answer_of_answerTo h.inputs h.outstanding hlen)
  | succ d ih =>
    have hwaits : seqStep c a s = .next s := seqStep_unanswered (h.phase ▸ hp) h.outstanding (answer_of_quiet h.inputs)
    refine h.goes_on rfl hwaits h.busy fun hnext => ?_
    rw [h.phase, h.outstanding] at hnext
    exact ih hnext hlen

/-- A transaction: it is issued, and in time its answer arrives. -/
theorem ExchangeAt.reaches_answer_of_issue {n d : Nat} {x : Answer} {e : PortEvent}
    (h : ExchangeAt c a cfg before rest p false (transaction n d x ins) s)
    (hp : p = .transmit ∨ p = .await ∨ p = .receive) (hlen : s.trace.length = n)
    (hissue : seqStep c a s = .next (issue e s))
    (hlater : ∀ u, ExchangeAt c a cfg before rest p true (answerTo n x :: ins) u → answer u = some x → Reaches P u) :
    Reaches P s := by
  refine h.goes_on rfl hissue h.busy fun hnext => ?_
  rw [issue_phase, h.phase] at hnext
  exact hnext.reaches_answer hp (by simp [hlen]) hlater

/-- From TRANSMIT on, `REQ_ARGS` holds the validated arguments (R75). -/
theorem ExchangeAt.validate_eq (h : ExchangeAt c a cfg before rest p out ins s)
    (hp : p = .transmit ∨ p = .await ∨ p = .receive ∨ p = .decode) : validate cfg c a = .ok s.reqArgs := by
  have hprog := h.progress
  rcases hp with rfl | rfl | rfl | rfl <;> simp only [ProgressInv, h.phase, h.cfg_eq] at hprog
  case inl | inr.inl =>
    obtain ⟨hval, -⟩ := hprog
    exact hval
  case inr.inr.inl =>
    obtain ⟨-, hval, -⟩ := hprog
    exact hval
  case inr.inr.inr =>
    obtain ⟨-, -, hval, -⟩ := hprog
    exact hval

/-- DECODE ends the exchange with what the received bytes give (R81). -/
theorem ExchangeAt.completes_of_decode (h : ExchangeAt c a cfg before rest .decode false (quiet :: ins) s)
    (hwords : respWords c ≠ 0) :
    Reaches (Completed cfg before rest (exchange cfg c a (.ok ()) (.ok s.rxbuf))) s := by
  refine h.ends rfl (seqStep_decode h.phase) (afterVerify_trace _ _) ?_
  rw [exchange_read (h.validate_eq (by simp)) hwords]
  simp [sent, issued, h.phase, h.outstanding, h.cfg_eq, exchangeEvents, deframe]

/-- The BusRead fails the exchange, or hands its bytes to DECODE (R80). -/
theorem ExchangeAt.completes_of_receive
    (h : ExchangeAt c a cfg before rest .receive false (receiveInputs before.length r d₃ ins) s)
    (hwords : respWords c ≠ 0) :
    Reaches (Completed cfg before rest (exchange cfg c a (.ok ()) r)) s := by
  refine h.reaches_answer_of_issue (by simp) (by simp [h.trace, sent, issued, h.phase, h.outstanding, exchangeEvents])
    (seqStep_receive_issue h.phase h.outstanding) fun u hu hans => ?_
  rcases r with k | bytes
  · refine hu.ends (o := .error (.transport k)) rfl (seqStep_failed (.inr hu.phase) hu.outstanding hans) rfl ?_
    rw [exchange_read_failed (hu.validate_eq (by simp)) hwords]
    simp [sent, issued, hu.phase, hu.outstanding, hu.cfg_eq, exchangeEvents]
  · exact hu.goes_on rfl (seqStep_received hu.phase hu.outstanding hans) rfl fun hnext =>
      hnext.completes_of_decode hwords

/-- After the Wait a command without a response is over, and another reads (R79). -/
theorem ExchangeAt.completes_of_await
    (h : ExchangeAt c a cfg before rest .await false (awaitInputs before.length r d₂ d₃ ins) s) :
    Reaches (Completed cfg before rest (exchange cfg c a (.ok ()) r)) s := by
  refine h.reaches_answer_of_issue (by simp) (by simp [h.trace, sent, issued, h.phase, h.outstanding, exchangeEvents])
    (seqStep_await_issue h.phase h.outstanding) fun u hu hans => ?_
  by_cases hwords : respWords c = 0
  · refine hu.ends (o := .ok .unit) rfl (seqStep_returns_unit hu.phase hu.outstanding hans hwords) rfl ?_
    rw [exchange_no_words (hu.validate_eq (by simp)) hwords]
    simp [sent, issued, hu.phase, hu.outstanding, hu.cfg_eq]
  · exact hu.goes_on rfl (seqStep_awaited hu.phase hu.outstanding hans hwords) rfl fun hnext =>
      hnext.completes_of_receive hwords

/-- The BusWrite sends the frame, and fails the exchange or leads to the Wait (R78). -/
theorem ExchangeAt.completes_of_transmit
    (h : ExchangeAt c a cfg before rest .transmit false
      (transmitInputs before.length w r d₁ d₂ d₃ ins) s) :
    Reaches (Completed cfg before rest (exchange cfg c a w r)) s := by
  have hprog := h.progress
  simp only [ProgressInv, h.phase] at hprog
  obtain ⟨-, hframe, -⟩ := hprog
  refine h.reaches_answer_of_issue (by simp) (by simp [h.trace, sent, issued, h.phase, h.outstanding])
    (seqStep_transmit_issue h.phase h.outstanding hframe) fun u hu hans => ?_
  rcases w with k | ⟨⟩
  · refine hu.ends (o := .error (.transport k)) rfl (seqStep_failed (.inl hu.phase) hu.outstanding hans) rfl ?_
    rw [exchange_write_failed (hu.validate_eq (by simp))]
    simp [sent, issued, hu.phase, hu.outstanding, hu.cfg_eq]
  · exact hu.goes_on rfl (seqStep_written hu.phase hu.outstanding hans) rfl fun hnext => hnext.completes_of_await

/-- Validation fails the exchange with nothing issued, or the frame is built (R76, R77). -/
theorem ExchangeAt.completes_of_validate
    (h : ExchangeAt c a cfg before rest .validate false
      (quiet :: quiet :: transmitInputs before.length w r d₁ d₂ d₃ ins) s) :
    Reaches (Completed cfg before rest (exchange cfg c a w r)) s := by
  obtain rfl := h.cfg_eq
  cases hval : validate s.cfg c a with
  | error e =>
    refine h.ends (o := .error e) rfl (seqStep_refused h.phase hval) rfl ?_
    rw [exchange_invalid hval]
    simp [sent, issued, h.phase, h.outstanding]
  | ok args =>
    refine h.goes_on rfl (seqStep_validated h.phase hval) rfl fun hencode => ?_
    have hfits := frame_fits s.cfg c ((validate_length hval).trans_le (argWords_le_maxArgWords c))
    exact hencode.goes_on rfl (seqStep_encode rfl hfits) rfl fun htransmit => htransmit.completes_of_transmit

end Phases

/-- Every run of a catalog command whose transactions are answered is its exchange (R83). -/
theorem runsAs_exchange (c : Command) : RunsAs c.toInstr fun cfg => exchange cfg c := by
  rintro s a rest w r d₁ d₂ d₃ after ⟨hready, req, hreq, hdecode⟩ hinputs
  rw [schedule_append] at hinputs
  have hstart := inExchange_start (rest := rest) (s := s) hdecode
  have hvalidate : ExchangeAt c a s.cfg s.trace rest .validate false _ _ :=
    ⟨hstart, rfl, rfl, congrArg List.tail hinputs⟩
  exact reaches_of_step (step_accept_toInstr hready (resetAsserted_eq hinputs) hreq hdecode)
    hvalidate.completes_of_validate

/-! ### The two forms of an exchange -/

section Forms

variable {c : Command}

/-- A command without an operand that reads words has the get form (R87, R92, R94, R96, R98). -/
theorem exchange_eq_getForm (hargs : argWords c = 0) (hwords : respWords c ≠ 0) (cfg : Config) (a : DWord)
    (w : Except TKind Unit) (r : Except TKind (List Byte)) : exchange cfg c a w r =
      getForm (cfg.cmdAddr.get c) (cfg.delayMs.get c) (respWords c) (decodeResult c) cfg a w r := by
  have hval : validate cfg c a = if a = 0 then .ok [] else .error (.validation .width) := by
    rw [validate, if_pos hargs]
    rfl
  by_cases ha : a = 0
  · rw [if_pos ha] at hval
    unfold getForm
    rw [if_neg (not_not.mpr ha)]
    rcases w with k | ⟨⟩
    · exact exchange_write_failed hval k r
    · rcases r with k | bytes
      · exact exchange_read_failed hval hwords k
      · obtain ⟨-, -, -, hdeframe⟩ := decodeResultRule
        rw [exchange_read hval hwords, hdeframe]
        rfl
  · rw [if_neg ha] at hval
    unfold getForm
    rw [exchange_invalid hval, if_pos ha]

/-- A command without a response has the set form, with the argument of the table of R60 to R67. -/
theorem exchange_eq_setForm (hwords : respWords c = 0) (cfg : Config) (a : DWord) (w : Except TKind Unit)
    (r : Except TKind (List Byte)) : exchange cfg c a w r =
      setForm (cfg.cmdAddr.get c) (cfg.delayMs.get c) ((argsOf cfg c a).map List.head?) cfg w := by
  have hval := validate_eq_argsOf cfg c a
  cases hargs : argsOf cfg c a with
  | error cause =>
    rw [hargs] at hval
    exact exchange_invalid hval w r
  | ok args =>
    rw [hargs] at hval
    have hframe : frame cfg c args = frameOf cfg (cfg.cmdAddr.get c) args.head? := by
      rw [← frame_toList, ← argsOf_eq_toList hargs]
    rcases w with k | ⟨⟩
    · rw [exchange_write_failed hval, exchangeEvents, hframe]
      rfl
    · rw [exchange_no_words hval hwords, exchangeEvents, hframe]
      rfl

theorem runsAs_congr {i : DWord → Instr}
    {f g : Config → DWord → Except TKind Unit → Except TKind (List Byte) → List PortEvent × Except Error Result}
    (hf : RunsAs i f) (hfg : ∀ cfg a w r, f cfg a w r = g cfg a w r) : RunsAs i g := by
  obtain rfl : f = g := by
    funext cfg a w r
    exact hfg cfg a w r
  exact hf

theorem runsAs_getForm (hargs : argWords c = 0) (hwords : respWords c ≠ 0) : RunsAs c.toInstr fun cfg =>
    getForm (cfg.cmdAddr.get c) (cfg.delayMs.get c) (respWords c) (decodeResult c) cfg :=
  runsAs_congr (runsAs_exchange c) (exchange_eq_getForm hargs hwords)

theorem runsAs_setForm {arg : Config → DWord → Except Cause (Option Word)} (hwords : respWords c = 0)
    (harg : ∀ cfg a, (argsOf cfg c a).map List.head? = arg cfg a) : RunsAs c.toInstr fun cfg a w _ =>
      setForm (cfg.cmdAddr.get c) (cfg.delayMs.get c) (arg cfg a) cfg w :=
  runsAs_congr (runsAs_exchange c) fun cfg a w r => harg cfg a ▸ exchange_eq_setForm hwords cfg a w r

theorem returnsUnit_toInstr (hwords : respWords c = 0) : ReturnsUnit c.toInstr := by
  intro a s hphase hout hans
  rw [exec_toInstr, seqStep_returns_unit hphase hout hans hwords]
  rfl

end Forms

theorem returnsTyped_toInstr (c : Command) : ReturnsTyped c.toInstr (respWords c) (decodeResult c) := by
  intro a s ws hphase hdec
  have hdecode : exec (c.toInstr a) s = .next (ret (decodeResult c ws) (afterVerify s.rxbuf s)) := by
    rw [exec_toInstr, seqStep_decode hphase, finishDecode, hdec]
    rfl
  exact ⟨_, hdecode, rfl, rfl, rfl, rfl, rfl, rfl, rfl⟩

/-! ### The argument of each command -/

theorem noArg_eq (a : DWord) : Except.map List.head? (if a.toNat = 0 then .ok [] else .error .width) = noArg a := by
  have hzero : a.toNat = 0 ↔ a = 0 := by simp [← BitVec.toNat_inj]
  simp only [noArg, hzero]
  split <;> rfl

theorem u16Arg_eq (inDomain : Nat → Prop) [DecidablePred inDomain] {cause : Cause} (a : DWord) :
    Except.map List.head? (if a.toNat < 65536 then if inDomain a.toNat then .ok [BitVec.ofNat 16 a.toNat] else .error cause
      else .error .width) = u16Arg inDomain cause a := by
  unfold u16Arg
  by_cases hwide : 65536 ≤ a.toNat
  · rw [if_pos hwide, if_neg (by omega)]
    rfl
  · rw [if_neg hwide, if_pos (by omega)]
    split <;> rfl

theorem u16Arg_unrestricted_eq (a : DWord) :
    Except.map List.head? (if a.toNat < 65536 then .ok [BitVec.ofNat 16 a.toNat] else .error .width) =
      u16Arg (fun _ => True) .width a := by
  simpa using u16Arg_eq (fun _ => True) a

/-- The two operands that SET_ASC takes, as the words it sends (R67, R100). -/
theorem ascArg_eq (a : DWord) :
    Except.map List.head? (if a.toNat ≤ 1 then .ok [BitVec.ofNat 16 a.toNat] else .error .width) =
      (if a = 1 then .ok (some 0x0001#16) else if a = 0 then .ok (some 0x0000#16) else .error Cause.width) := by
  by_cases hone : a = 1
  · subst hone
    rfl
  · by_cases hzero : a = 0
    · subst hzero
      rfl
    · have hbig : ¬ a.toNat ≤ 1 := by
        simp only [← BitVec.toNat_inj, BitVec.ofNat_eq_ofNat, BitVec.toNat_ofNat] at hone hzero
        omega
      rw [if_neg hone, if_neg hzero, if_neg hbig]
      rfl

/-! ### The commands that read words -/

/-- Settles O42: one word, split into its two bytes. -/
theorem getFwExchange : Obligations.GetFwExchange :=
  ⟨runsAs_getForm (c := .getFw) rfl (by decide), returnsTyped_toInstr .getFw⟩

/-- Settles O43: one word, as it is; the command words of the get forms are those of the set forms. -/
theorem getWordExchanges : Obligations.GetWordExchanges :=
  ⟨runsAs_getForm (c := .getReady) rfl (by decide), runsAs_getForm (c := .getToff) rfl (by decide),
    runsAs_getForm (c := .getAlt) rfl (by decide), returnsTyped_toInstr .getReady, returnsTyped_toInstr .getToff,
    returnsTyped_toInstr .getAlt⟩

/-- Settles O44: six words, joined in pairs. -/
theorem readMeasExchange : Obligations.ReadMeasExchange :=
  ⟨runsAs_getForm (c := .readMeas) rfl (by decide), returnsTyped_toInstr .readMeas⟩

/-! ### The commands without a response -/

/-- No row of R75 leads to IDLE. -/
theorem SeqRow.phase_ne_idle {c : Command} {a : DWord} {s t : State} (h : SeqRow c a s t) : t.phase ≠ .idle := by
  cases h
  case waiting hphase hout => rcases hphase with hphase | hphase | hphase <;> simp [hphase]
  case decoded hphase => simp [finishDecode]
  all_goals simp [*]

/-- Settles O45: the operand is 0 or too wide, and no row of an exchange resets the block. -/
theorem plainCommandExchanges : Obligations.PlainCommandExchanges := by
  refine ⟨runsAs_setForm (c := .softReset) rfl fun _ => noArg_eq, runsAs_setForm (c := .stopCont) rfl fun _ => noArg_eq,
    returnsUnit_toInstr (c := .softReset) rfl, returnsUnit_toInstr (c := .stopCont) rfl, fun a s t hexec => ?_⟩
  have hrow : SeqRow .softReset a s t := seqStep_row hexec
  obtain ⟨hcfg, -⟩ := hrow.outside
  exact ⟨hrow.phase_ne_idle, hrow.req, hcfg⟩

/-- Settles O46: width before the bounds of the interval. -/
theorem intervalExchanges : Obligations.IntervalExchanges :=
  ⟨runsAs_setForm (c := .startCont) rfl fun _ => u16Arg_eq fun v => 2 ≤ v ∧ v ≤ 1800,
    runsAs_setForm (c := .setInterval) rfl fun _ => u16Arg_eq fun v => 2 ≤ v ∧ v ≤ 1800,
    returnsUnit_toInstr (c := .startCont) rfl, returnsUnit_toInstr (c := .setInterval) rfl⟩

/-- Settles O47: width alone. -/
theorem unrestrictedSetExchanges : Obligations.UnrestrictedSetExchanges :=
  ⟨runsAs_setForm (c := .setToff) rfl fun _ => u16Arg_unrestricted_eq,
    runsAs_setForm (c := .setAlt) rfl fun _ => u16Arg_unrestricted_eq,
    returnsUnit_toInstr (c := .setToff) rfl, returnsUnit_toInstr (c := .setAlt) rfl⟩

/-- Settles O48: width before the pressure's domain. -/
theorem pressureExchange : Obligations.PressureExchange :=
  ⟨runsAs_setForm (c := .setPressure) rfl fun _ => u16Arg_eq fun v => v = 0 ∨ 700 ≤ v ∧ v ≤ 1400,
    returnsUnit_toInstr (c := .setPressure) rfl⟩

/-- Settles O49: the operand is 1, 0 or too wide. -/
theorem selfCalibrationExchange : Obligations.SelfCalibrationExchange :=
  ⟨runsAs_setForm (c := .setAsc) rfl fun _ => ascArg_eq, returnsUnit_toInstr (c := .setAsc) rfl⟩

/-- Settles O50: width before the bounds that the configuration holds. -/
theorem recalibrationExchange : Obligations.RecalibrationExchange :=
  ⟨runsAs_setForm (c := .setFrc) rfl fun cfg => u16Arg_eq fun v => cfg.frcMin.toNat ≤ v ∧ v ≤ cfg.frcMax.toNat,
    returnsUnit_toInstr (c := .setFrc) rfl⟩

/-! ### SET_READY and the examples -/

/-- Settles O9: the selector alone decides, and acceptance and the entry of the error touch nothing else. -/
theorem setReadyRefused : Obligations.SetReadyRefused := by
  refine ⟨fun s => rfl, fun r hsel => decode_setReady hsel, ?_⟩
  rintro s rest ⟨hready, r, hreq, hdecode⟩ hreset
  exact ⟨_, step_accept hready hreset hreq hdecode, rfl, rfl, rfl, rfl, rfl, rfl, rfl, rfl⟩

/-- A setting's set frame is its get frame and the argument word, for they share the command word (R96, R98, log 27). -/
theorem frame_append_argument {c d : Command} {cfg : Config} (haddr : cmdAddr cfg c = cmdAddr cfg d) (v : Word) :
    frame cfg c [v] = frame cfg d [] ++ wireOf v := by
  simp only [frame, frameHead, haddr, wires_nil, List.append_nil]
  rfl

/-- Settles O51: each example is evaluated, the frames from the reference command words. -/
theorem catalogExamples : Obligations.CatalogExamples := by
  refine ⟨?_, fun cfg v => ⟨frame_append_argument rfl v, frame_append_argument rfl v⟩, by decide +kernel⟩
  rintro cfg ⟨hwords, hcrc⟩
  simp only [frameOf, hwords, hcrc]
  decide +kernel

end Sys2Proof.Proofs
end

section
/-! The errors family (60_exceptions.md): the entry of an error (R108), the order of the checks (R109), that no error stops
the block (R110), and that no answer counts without a transaction outstanding (R111). -/

namespace Sys2Proof.Proofs

open Sys2Proof.Machine Sys2Proof.Safety Sys2Proof.Stmt

/-! ### The entry of an error -/

/-- A row that records an error is an entry of that error: VALIDATE's, a failed transaction's, or DECODE's (R75, R108). -/
theorem SeqRow.enters_error {c : Command} {a : DWord} {s t : State} (h : SeqRow c a s t) (hclear : s.err = ErrReg.clear)
    (herr : t.err ≠ ErrReg.clear) : ∃ e crc widx, t = raise e (scratch crc widx s.rxbuf s.rxlen s) := by
  cases h
  case invalid e hphase hval => exact ⟨e, s.crcreg, s.widx, rfl⟩
  case failed k hphase hout hans => exact ⟨.transport k, s.crcreg, s.widx, rfl⟩
  case decoded hphase =>
    unfold finishDecode at herr ⊢
    cases hdec : (decWords s.rxbuf (respWords c)).map (decodeResult c) with
    | ok v => exact absurd (by rw [hdec]; rfl) herr
    | error e => exact ⟨e, _, _, rfl⟩
  case returnsUnit hphase hout hans hwords => exact absurd rfl herr
  all_goals exact absurd hclear herr

/-- An operation that records an error has only worked in the scratch registers before it. -/
theorem exec_enters_error {i : Instr} {s t : State} (hexec : exec i s = .next t) (hclear : s.err = ErrReg.clear)
    (herr : t.err ≠ ErrReg.clear) : ∃ e crc widx rx len, t = raise e (scratch crc widx rx len s) := by
  rcases exec_cases hexec with ⟨u, ⟨crc, widx, rx, len, rfl, -⟩, rfl⟩ | ⟨c, a, rfl, hstep⟩
  · cases hout : pureOutcome s.cfg i with
    | ok v => exact absurd (by rw [hout]; rfl) herr
    | error e => exact ⟨e, crc, widx, rx, len, rfl⟩
  · obtain ⟨e, crc, widx, rfl⟩ := (seqStep_row hstep).enters_error hclear herr
    exact ⟨e, crc, widx, s.rxbuf, s.rxlen, rfl⟩

/-- Settles O52: only `raise` records an error, and in DONE a step without a request lets time pass. -/
theorem errorEntry : Obligations.ErrorEntry := by
  intro i s t hexec hclear herr
  obtain ⟨e, crc, widx, rx, len, rfl⟩ := exec_enters_error hexec hclear herr
  refine ⟨rfl, rfl, rfl, ⟨e, by rw [← raise_eq_raisedAs]; rfl⟩, rfl, rfl, rfl, rfl, rfl, rfl, rfl, ?_⟩
  intro u hnone hreset hstep
  rw [step_of_no_request rfl hnone hreset] at hstep
  cases hstep
  exact ⟨rfl, rfl, rfl⟩

/-! ### The order of the checks -/

/-- An operand wider than a word fails the width check of every command, whatever its domain (R67). -/
theorem argsOf_of_wide (cfg : Config) (c : Command) {a : DWord} (hwide : 65536 ≤ a.toNat) :
    argsOf cfg c a = .error .width := by
  cases c <;> exact if_neg (by omega)

theorem validate_of_wide (cfg : Config) (c : Command) {a : DWord} (hwide : 65536 ≤ a.toNat) :
    validate cfg c a = .error (.validation .width) := by
  rw [validate_eq_argsOf, argsOf_of_wide cfg c hwide]
  rfl

theorem operandCommand_of_unnamed {sel : Byte} (hsel : sel < 0x10#8 ∨ 0x1E#8 < sel ∨ sel = 0x16#8) :
    operandCommand sel = .error (.unsupported sel) := by
  rw [operandCommand, (ofSelector_eq_none_iff sel).mpr hsel]

theorem outstanding_of_answer {s : State} {x : Answer} (hans : answer s = some x) : s.outstanding = true := by
  by_contra hout
  simp [answer_eq_none_of_not_outstanding (Bool.eq_false_of_not_eq_true hout)] at hans

/-- A failure is no answer to a Wait (R85, log 9). -/
theorem seqStep_await_fail {c : Command} {a : DWord} {s : State} {k : TKind} (hphase : s.phase = .await)
    (hans : answer s = some (.fail k)) : seqStep c a s = .next s := by
  simp only [seqStep, hphase, seqAwait, outstanding_of_answer hans, hans, if_true]

/-- Once its transactions are answered, an exchange ends with the error of `dec_words` on the bytes read (R81). -/
theorem exchange_decode_error {cfg : Config} {c : Command} {a : DWord} {args : List Word} {bytes : List Byte} {e : Error}
    (hval : validate cfg c a = .ok args) (hwords : 0 < respWords c) (hdec : decWords bytes (respWords c) = .error e) :
    (exchange cfg c a (.ok ()) (.ok bytes)).2 = .error e := by
  rw [exchange_read hval hwords.ne', deframe, hdec]
  rfl

/-- Settles O53: each check is made before the later ones are looked at. -/
theorem errorPriority : Obligations.ErrorPriority := by
  refine ⟨fun s r rest hready hreset hreq hsel => ⟨_, step_unsupported hready hreset hreq hsel, rfl⟩,
    fun sel a bytes s hsel => ?_, fun cfg c a hwide => validate_of_wide cfg c hwide, fun n bytes s hwide => ?_,
    fun cfg c a w r e hval => exchange_invalid hval w r,
    fun cfg c a k r args hval => congrArg Prod.snd (exchange_write_failed hval k r), fun c a s k hphase hans => ?_,
    fun cfg c a k args hval hwords => congrArg Prod.snd (exchange_read_failed hval hwords.ne' k),
    fun cfg c a bytes args k hval hwords hk hbad hfirst => ?_, fun cfg c a bytes args hval hwords hgood hlen => ?_⟩
  · simp only [exec, execSerialize, execDeframe, operandCommand_of_unnamed hsel]
    exact ⟨⟨_, rfl, rfl⟩, _, rfl, rfl⟩
  · rw [exec_decWords, if_pos hwide]
    exact ⟨_, rfl, rfl⟩
  · rw [exec_toInstr, seqStep_await_fail hphase hans]
  · have hverify := verifyFrom_of_first_bad hk hbad hfirst 0 Config.crcInit 0
    exact exchange_decode_error hval hwords (decWords_of_failed (by rw [hverify, Nat.zero_add]) _)
  · refine exchange_decode_error hval hwords ?_
    rw [decWords_of_not_failed (verifyFrom_failed_of_all_good hgood _ _ _), if_neg hlen]

/-! ### No step stops -/

/-- A block that waits for an answer goes on whatever comes, or nothing (R84, log 9). -/
theorem seqStep_outstanding_goesOn {c : Command} {a : DWord} {s : State}
    (hphase : s.phase = .transmit ∨ s.phase = .await ∨ s.phase = .receive) (hout : s.outstanding = true) :
    GoesOn (seqStep c a s) := by
  rcases hphase with hphase | hphase | hphase <;>
    simp only [seqStep, hphase, seqTransmit, seqAwait, seqReceive, hout, if_true]
  · split <;> exact ⟨_, rfl⟩
  · split
    · split <;> exact ⟨_, rfl⟩
    · exact ⟨_, rfl⟩
  · split <;> exact ⟨_, rfl⟩

/-- A running exchange goes on: the frame that ENCODE stores fits TXBUF, and TRANSMIT reads that frame back (R13, R77, R78). -/
theorem seqStep_goesOn {c : Command} {a : DWord} {s : State} (hbuf : BufferInv s) (hprog : ProgressInv c a s) :
    GoesOn (seqStep c a s) := by
  obtain ⟨-, -, -, -, -, hargs⟩ := hbuf
  cases hphase : s.phase
  case idle => exact ⟨_, seqStep_of_ready (reqReady_iff.mpr (.inl hphase)) c a⟩
  case done => exact ⟨_, seqStep_of_ready (reqReady_iff.mpr (.inr hphase)) c a⟩
  case validate =>
    cases hval : validate s.cfg c a with
    | error e => exact ⟨_, seqStep_refused hphase hval⟩
    | ok args => exact ⟨_, seqStep_validated hphase hval⟩
  case encode => exact ⟨_, seqStep_encode hphase (frame_fits s.cfg c hargs)⟩
  case decode => exact ⟨_, seqStep_decode hphase⟩
  all_goals cases hout : s.outstanding
  case transmit.false =>
    simp only [ProgressInv, hphase] at hprog
    obtain ⟨-, hframe, -⟩ := hprog
    exact ⟨_, seqStep_transmit_issue hphase hout hframe⟩
  case await.false => exact ⟨_, seqStep_await_issue hphase hout⟩
  case receive.false => exact ⟨_, seqStep_receive_issue hphase hout⟩
  all_goals exact seqStep_outstanding_goesOn (by simp [hphase]) hout

theorem goesOn_thenTick {o : Step} (h : GoesOn o) : GoesOn (thenTick o) := by
  obtain ⟨t, rfl⟩ := h
  exact ⟨tick t, rfl⟩

/-- What a step runs goes on: an operation just accepted ends or starts its exchange, and a latched one is an exchange. -/
theorem exec_goesOn {s u : State} {i : Instr} (hs : Invariant s) (hfetch : fetch s = .run i u) : GoesOn (exec i u) := by
  obtain ⟨hbuf, -, hseq⟩ := hs
  rcases fetch_run hfetch with ⟨hready, r, rest, -, -, rfl⟩ | ⟨hbusy, hdecode, rfl⟩
  · have ended (hi : i.isPure = true ∨ i = .setReady) : GoesOn (exec i (accept r rest s)) := by
      obtain ⟨v, -, hexec⟩ := exec_pure hi (accept r rest s)
      exact ⟨_, hexec⟩
    rcases Instr.kinds i with hpure | hsetReady | ⟨c, a, rfl⟩
    · exact ended (.inl hpure)
    · exact ended (.inr hsetReady)
    · exact ⟨_, (exec_toInstr c a _).trans (seqStep_of_ready (s := accept r rest s) hready c a)⟩
  · obtain ⟨c, hreq, hprog⟩ := (sequencerInv_of_busy hbusy).mp hseq
    obtain rfl : i = c.toInstr u.req.a := by simpa [hreq] using hdecode.symm
    rw [exec_toInstr]
    exact seqStep_goesOn hbuf hprog

/-- Settles O56: reset, idling and a refusal always go on, and what runs goes on by the invariant. -/
theorem noStepStops : Obligations.NoStepStops := by
  intro s hs
  cases hreset : resetAsserted s with
  | true => exact ⟨_, step_reset hreset⟩
  | false =>
    cases hfetch : fetch s with
    | idle => exact ⟨_, step_idle hreset hfetch⟩
    | run i u =>
      rw [step_run hreset hfetch]
      exact goesOn_thenTick (exec_goesOn hs hfetch)
    | reserved sel u => exact ⟨_, step_reserved hreset hfetch⟩

/-! ### Without a transaction outstanding, no operation looks at the inputs -/

/-- `s` with other inputs to come. -/
def withInputs (ins : List Input) (s : State) : State := { s with inputs := ins }

@[simp] theorem withInputs_phase (ins : List Input) (s : State) : (withInputs ins s).phase = s.phase := rfl
@[simp] theorem withInputs_cfg (ins : List Input) (s : State) : (withInputs ins s).cfg = s.cfg := rfl
@[simp] theorem withInputs_reqArgs (ins : List Input) (s : State) : (withInputs ins s).reqArgs = s.reqArgs := rfl
@[simp] theorem withInputs_txbuf (ins : List Input) (s : State) : (withInputs ins s).txbuf = s.txbuf := rfl
@[simp] theorem withInputs_txlen (ins : List Input) (s : State) : (withInputs ins s).txlen = s.txlen := rfl
@[simp] theorem withInputs_outstanding (ins : List Input) (s : State) :
    (withInputs ins s).outstanding = s.outstanding := rfl

theorem finish_withInputs (ins : List Input) (o : Except Error Result) (s : State) :
    finish o (withInputs ins s) = withInputs ins (finish o s) := by
  cases o <;> rfl

theorem finishDecode_withInputs (ins : List Input) (bytes : List Byte) (n : Nat) (typed : List Word → Result) (s : State) :
    finishDecode bytes n typed (withInputs ins s) = withInputs ins (finishDecode bytes n typed s) :=
  finish_withInputs ins _ (afterVerify bytes s)

theorem onWord_withInputs (ins : List Input) (f : Word → Result) (a : DWord) (s : State) :
    onWord f a (withInputs ins s) = onNext (withInputs ins) (onWord f a s) := by
  rw [onWord_eq, onWord_eq]
  split <;> rfl

/-- A pure operation, or SET_READY, ends at once: it leaves the inputs to come as they are. -/
theorem exec_pure_withInputs {i : Instr} (hi : i.isPure = true ∨ i = .setReady) (ins : List Input) (s : State) :
    exec i (withInputs ins s) = onNext (withInputs ins) (exec i s) := by
  cases i
  case crc8 a | verify a b | encU16 a => exact onWord_withInputs ins _ a s
  case encU32 a | encF32 a | setReady => rfl
  case decU16 bytes | decU32 bytes | decF32 bytes =>
    exact congrArg Host.Outcome.next (finishDecode_withInputs ins bytes _ _ (loadRx bytes s))
  case decWords b bytes =>
    simp only [exec, execDecWords]
    cases operandCount b with
    | error e => rfl
    | ok n => exact congrArg Host.Outcome.next (finishDecode_withInputs ins bytes n _ (loadRx bytes s))
  case serialize cmd a =>
    obtain ⟨hserialize, -⟩ := serializeOperation
    rw [hserialize, hserialize, withInputs_cfg]
    cases Command.ofSelector cmd with
    | none => rfl
    | some c =>
      dsimp only
      cases argsOf s.cfg c a <;> rfl
  case deframe cmd bytes =>
    simp only [exec, execDeframe]
    cases operandCommand cmd with
    | error e => rfl
    | ok c => exact congrArg Host.Outcome.next (finishDecode_withInputs ins bytes _ _ (loadRx bytes s))
  all_goals exact absurd hi (by simp [Instr.isPure, Instr.opsel])

/-- With no transaction outstanding, no row of R75 looks at an answer. -/
theorem seqStep_withInputs {s : State} (hout : s.outstanding = false) (ins : List Input) (c : Command) (a : DWord) :
    seqStep c a (withInputs ins s) = onNext (withInputs ins) (seqStep c a s) := by
  cases hphase : s.phase
  case idle | done =>
    have hready : reqReady s = true := by simp [reqReady, hphase]
    rw [seqStep_of_ready hready, seqStep_of_ready (s := withInputs ins s) hready]
    rfl
  case validate =>
    cases hval : validate s.cfg c a with
    | error e =>
      rw [seqStep_refused hphase hval, seqStep_refused (s := withInputs ins s) hphase hval]
      rfl
    | ok args =>
      rw [seqStep_validated hphase hval, seqStep_validated (s := withInputs ins s) hphase hval]
      rfl
  case encode =>
    simp only [seqStep, seqEncode, withInputs_phase, withInputs_txbuf, withInputs_cfg, withInputs_reqArgs, hphase]
    cases txWrite s.txbuf 0 (frame s.cfg c s.reqArgs) <;> rfl
  case transmit =>
    simp only [seqStep, seqTransmit, withInputs_phase, withInputs_outstanding, withInputs_txbuf, withInputs_txlen, hphase,
      hout, Bool.false_eq_true, if_false]
    cases txRead s.txbuf 0 s.txlen <;> rfl
  case await =>
    rw [seqStep_await_issue hphase hout, seqStep_await_issue (s := withInputs ins s) hphase hout]
    rfl
  case receive =>
    rw [seqStep_receive_issue hphase hout, seqStep_receive_issue (s := withInputs ins s) hphase hout]
    rfl
  case decode =>
    rw [seqStep_decode hphase, seqStep_decode (s := withInputs ins s) hphase]
    exact congrArg Host.Outcome.next (finishDecode_withInputs ins _ _ _ s)

theorem exec_withInputs {s : State} (hout : s.outstanding = false) (ins : List Input) (i : Instr) :
    exec i (withInputs ins s) = onNext (withInputs ins) (exec i s) := by
  rcases Instr.kinds i with hpure | hready | ⟨c, a, rfl⟩
  · exact exec_pure_withInputs (.inl hpure) ins s
  · exact exec_pure_withInputs (.inr hready) ins s
  · simp only [exec_toInstr, seqStep_withInputs hout]

/-! ### The step without a transaction outstanding -/

/-- Once the input of the step is used up, two blocks that differed in it alone are the same. -/
theorem tick_withInputs {ins : List Input} {s : State} (htail : ins.tail = s.inputs.tail) :
    tick (withInputs ins s) = tick s := by
  rw [tick, tick, ← htail]
  rfl

theorem thenTick_exec_withInputs {s : State} {ins : List Input} (hout : s.outstanding = false)
    (htail : ins.tail = s.inputs.tail) (i : Instr) : thenTick (exec i (withInputs ins s)) = thenTick (exec i s) := by
  rw [exec_withInputs hout]
  cases hexec : exec i s with
  | next t =>
    obtain ⟨-, -, hinputs⟩ := exec_keeps hexec
    exact congrArg Host.Outcome.next (tick_withInputs (htail.trans (congrArg List.tail hinputs.symm)))
  | fault f => rfl
  | refused r => rfl

/-- Settles O60: whatever is run reads no input, and the step uses up the one input in which the blocks differ. -/
theorem strayAnswersIgnored : Obligations.StrayAnswersIgnored := by
  intro s i rest stray hout hinputs
  change step (withInputs ({ i with answer := stray } :: rest) s) = step s
  generalize hins : ({ i with answer := stray } :: rest : List Input) = ins
  have htail : ins.tail = s.inputs.tail := by rw [← hins, hinputs]; rfl
  have hreset : resetAsserted (withInputs ins s) = resetAsserted s := by
    rw [resetAsserted_eq hinputs, resetAsserted_eq (s := withInputs ins s) hins.symm]
  cases hr : resetAsserted s with
  | true =>
    rw [step_reset hr, step_reset (hreset.trans hr)]
    exact congrArg _ (tick_withInputs (s := resetBlock s) htail)
  | false =>
    have hr' := hreset.trans hr
    cases hready : reqReady s with
    | true =>
      cases hreq : s.requests with
      | nil =>
        rw [step_of_no_request hready hreq hr, step_of_no_request (s := withInputs ins s) hready hreq hr',
          tick_withInputs htail]
      | cons r rest =>
        cases hdecode : decode r with
        | ok j =>
          rw [step_accept hready hr hreq hdecode, step_accept (s := withInputs ins s) hready hr' hreq hdecode]
          exact thenTick_exec_withInputs (s := accept r rest s) hout htail j
        | error e =>
          have hsel := Or.inl (b := r.fields.opsel = 0x16#8) (reservedSelector_of_decode_error hdecode)
          rw [step_unsupported hready hr hreq hsel, step_unsupported (s := withInputs ins s) hready hr' hreq hsel]
          exact congrArg _ (tick_withInputs (s := raise _ (accept r rest s)) htail)
    | false =>
      cases hdecode : s.req.decode with
      | ok j =>
        rw [step_latched hready hr hdecode, step_latched (s := withInputs ins s) hready hr' hdecode]
        exact thenTick_exec_withInputs hout htail j
      | error e =>
        rw [step_latched_reserved hready hr hdecode, step_latched_reserved (s := withInputs ins s) hready hr' hdecode]
        exact congrArg _ (tick_withInputs (s := raise _ s) htail)

end Sys2Proof.Proofs
end

section
/-! The reset family (70_reset_and_hazards.md): the step with the reset input asserted (R114), and the answers that arrive too
late to count (R115). -/

namespace Sys2Proof.Proofs

open Sys2Proof.Machine Sys2Proof.Safety Sys2Proof.Stmt

/-! ### Late answers -/

/-- An answer that names any transaction but the last one issued counts as none (R115, log 9). -/
theorem answer_eq_none_of_other_transaction {s : State} {n : Nat} {a : Answer}
    (hinput : (currentInput s).answer = some (n, a)) (hother : n + 1 ≠ s.trace.length) : answer s = none := by
  simp [answer, hinput, hother]

/-- Settles O3: the reset leaves a ready block with nothing outstanding, which idles through the late answer; an answer to an
earlier transaction does not carry the number of the last one. -/
theorem lateAnswersDiscarded : Obligations.LateAnswersDiscarded := by
  refine ⟨fun s i late rest hinputs hi hnone => ?_, fun s n a hinput hlate => ?_⟩
  · have hreset : step s = .next (tick (resetBlock s)) := step_reset ((resetAsserted_eq hinputs).trans hi)
    have hlater : (tick (resetBlock s)).inputs = ⟨false, late⟩ :: rest := by simp [hinputs]
    have hidle : step (tick (resetBlock s)) = .next (tick (tick (resetBlock s))) :=
      step_of_no_request rfl hnone (resetAsserted_eq hlater)
    exact ⟨_, runs_succ hreset (runs_succ hidle rfl), rfl, rfl, rfl, rfl, rfl, rfl, congrArg List.tail hlater⟩
  · rcases hlate with hout | hearlier
    · exact answer_eq_none_of_not_outstanding hout
    · exact answer_eq_none_of_other_transaction hinput hearlier.ne

/-! ### The reset step -/

/-- Settles O2: the step is `resetBlock`, which leaves the block ready, so the next step accepts; SOFT_RESET's own step is a
row of its exchange like any other command's (R88). -/
theorem resetStep : Obligations.ResetStep := by
  refine ⟨fun s hreset => ?_, fun s t i r rest hreset hstep hreq hdecode hreleased => ?_, ?_⟩
  · exact ⟨_, step_reset hreset, rfl, rfl, rfl, rfl, Memory.read_nil, rfl, rfl, rfl, rfl, rfl, rfl, rfl, rfl, rfl, rfl⟩
  · obtain rfl : tick (resetBlock s) = t := by simpa [step_reset hreset] using hstep
    exact step_accept rfl hreleased hreq hdecode
  · obtain ⟨-, -, -, -, hsoftReset⟩ := plainCommandExchanges
    exact hsoftReset

end Sys2Proof.Proofs
end
